-- ==== Sys2Proof/Word.lean ====
section
/-! DEFINITION. The two unsigned widths of the block: the 16-bit unit of registers and wire, and the framebuffer byte. -/

namespace Sys2Proof

/-- A `u16`: a host register, an operand, one unit on the wire (00_scope.md R9, R13). -/
abbrev Word := BitVec 16

/-- A `u8`: one byte of the framebuffer RAM (20_memory.md R80). -/
abbrev Byte := BitVec 8

end Sys2Proof
end

