-- ==== Sys2Proof/Config.lean ====
section
/-! DEFINITION. The named parameters of the spec at their defaults (log 28; 00_scope.md R16 to R21, 30_encoding.md R128 to R130),
and the values the spec leaves free, as constants without a body. -/

namespace Sys2Proof.Config

/-! ## Geometry and memory sizes (00_scope.md R16, R17, R21) -/

def P_DEFAULT_W : Word := 960
def P_DEFAULT_H : Word := 540
/-- Bytes of framebuffer RAM. -/
abbrev P_FB_CAPACITY : Nat := 259200
/-- Words of the bulk-read buffer. -/
abbrev P_RDBUF_WORDS : Nat := 20
/-- Length of the device-info record. -/
abbrev P_DEVINFO_WORDS : Nat := 20
/-- Operand registers ARG0..ARG8. -/
abbrev P_ARGS : Nat := 9
/-- Argument words one WRITE_ARGS may carry. -/
abbrev P_MAX_ARGS : Nat := 8

/-! ## Timing (00_scope.md R18): minimum holds in milliseconds; the windows are OPEN -/

def P_T_RST_LOW : Nat := 20
def P_T_RST_SETTLE : Nat := 100
/-- The busy-line timeout window: OPEN in the spec (93_implementation_defined.md U19), so it has no value here. -/
opaque P_T_BUSY_LINE : Nat
/-- The default busy-register poll window: OPEN in the spec (93_implementation_defined.md U19). -/
opaque P_T_BUSY_REG : Nat

/-! ## Wire levels (00_scope.md R19) -/

def P_READY_LEVEL : Bool := true
def P_SEL_ACTIVE_LEVEL : Bool := false
def P_RST_ASSERT_LEVEL : Bool := false
/-- Whether a wait precedes every unit of a stream or bulk read (41_handshake.md R157). -/
def P_WAIT_EACH_STREAM_WORD : Bool := false

/-! ## Protocol constants (30_encoding.md R128, R129, R130). UNVERIFIED: the defaults are the spec's own
"general knowledge" values (93_implementation_defined.md G1 to G3; log 11). -/

def P_DUMMY : Word := 0x0000
def K_PRE_CMD : Word := 0x6000
def K_PRE_WR : Word := 0x0000
def K_PRE_RD : Word := 0x1000
def K_SYS_RUN : Word := 0x0001
def K_REG_RD : Word := 0x0010
def K_REG_WR : Word := 0x0011
def K_LD_IMG_AREA : Word := 0x0021
def K_LD_IMG_END : Word := 0x0022
def K_DPY_BUF_AREA : Word := 0x0037
def K_VCOM : Word := 0x0039
def K_GET_DEV_INFO : Word := 0x0302
def A_I80CPCR : Word := 0x0004
def V_PACK_WRITE_EN : Word := 0x0001
def A_LISAR : Word := 0x0208
def A_LUTAFSR : Word := 0x1224
def K_VCOM_MODE_SET : Word := 0x0001
/-- Magnitude of the VCOM voltage in millivolts (30_encoding.md R131, 90_conflicts.md C4). -/
def V_VCOM_MV : Word := 2300

/-- `{endian[3:0], format[3:0], rotate[3:0]}` in bits 11:0: big-endian, 4bpp, rotation 0 (30_encoding.md R128). -/
def K_PACK_FLAGS : Word := (0#4 : BitVec 4) ++ (1#4 : BitVec 4) ++ (2#4 : BitVec 4) ++ (0#4 : BitVec 4)

def MODE_INIT : Word := 0
def MODE_DU : Word := 1
def MODE_GC16 : Word := 2
def MODE_GL16 : Word := 3
def MODE_GLR16 : Word := 4
def MODE_GLD16 : Word := 5
def MODE_FAST4 : Word := 6
def MODE_A2 : Word := 7
/-- Host-side code only: never sent (30_encoding.md R129). -/
def MODE_NONE : Word := 8

/-! ## Free values: draws the spec puts under no law (log 3, 4, 5, 6, 29) -/

/-- The levels of RDY_IN sampled by wait number `n` under a window of the given length, up to its DEADLINE:
the first sample and the finitely many that follow it (41_handshake.md R154, R158). -/
opaque readyLevels (window n : Nat) : Bool × List Bool

/-- The word received by `Rx` number `n` (41_handshake.md R153). -/
opaque rxWord (n : Nat) : Word

/-- How many further reads poll number `n` makes after its first, under a window of the given length, before
its DEADLINE occurs (41_handshake.md R159). -/
opaque pollReads (window n : Nat) : Nat

/-- What framebuffer byte `a` holds after engine reset number `epoch`, before anything writes it
(10_state.md R51, R60; 93_implementation_defined.md U4). -/
opaque powerOnByte (epoch a : Nat) : Byte

/-- What host read number `n` of a result register returns while the engine is busy (10_state.md R54). -/
opaque busyRead (n : Nat) : Word

end Sys2Proof.Config
end

