-- ==== Sys2Proof/Syntax.lean ====
section
/-! DEFINITION. The host operations: one constructor per row of opcode_table.json (30_encoding.md R112).
Operands are not in the command word; only WRITE_ARGS carries its argument count there (30_encoding.md R110). -/

namespace Sys2Proof

/-- A decoded command word. -/
inductive Instr where
  | nop
  | waitBusyLine
  | pollBusyReg
  | writeCommand
  | writeWord
  | writeRegister
  | setTargetAddr
  | writeArgs (cnt : BitVec 4)
  | readWord
  | readWords
  | readRegister
  | resetPanel
  | systemRun
  | configure
  | getDeviceInfo
  | setup
  | setPixel
  | readFbByte
  | writeRegion
  | updateRegion
  | writeDisplay
  | clear
deriving DecidableEq, Repr, Inhabited

end Sys2Proof
end

