-- ==== Sys2Proof/WellFormed.lean ====
section
/-! DEFINITION. Which instructions have a command word: the argument count of WRITE_ARGS is at most `P_MAX_ARGS`
(30_encoding.md R110, R114). -/

namespace Sys2Proof

/-- The one check the fields of an instruction need. -/
def Instr.wellFormed : Instr → Bool
  | .writeArgs cnt => decide (cnt.toNat ≤ Config.P_MAX_ARGS)
  | .nop | .waitBusyLine | .pollBusyReg | .writeCommand | .writeWord | .writeRegister | .setTargetAddr
  | .readWord | .readWords | .readRegister | .resetPanel | .systemRun | .configure | .getDeviceInfo
  | .setup | .setPixel | .readFbByte | .writeRegion | .updateRegion | .writeDisplay | .clear => true

end Sys2Proof
end

