-- ==== Sys2Proof/Decode.lean ====
section
/-! DEFINITION. The host command encoding (30_encoding.md R110 to R116): the decoder, total on every 16-bit word and
rejecting by name, then the encoder written from the same table. -/

namespace Sys2Proof

/-- Why a command word is illegal, in the order of the checks of 30_encoding.md R114. -/
inductive DecodeError where
  | reservedBits
  | reservedOpcode
  | countNotZero
  | countTooLarge
deriving DecidableEq, Repr

/-- Field OPC, bits 7:0 (30_encoding.md R110). -/
def opcField (c : Word) : BitVec 8 := c.extractLsb' 0 8
/-- Field CNT, bits 11:8. -/
def cntField (c : Word) : BitVec 4 := c.extractLsb' 8 4
/-- Field RSV, bits 15:12. -/
def rsvField (c : Word) : BitVec 4 := c.extractLsb' 12 4

/-- The opcode map of 30_encoding.md R112; every other OPC is reserved (R115). -/
def instrOfOpcode (cnt : BitVec 4) (opc : BitVec 8) : Option Instr :=
  match opc.toNat with
  | 0x00 => some .nop
  | 0x01 => some .waitBusyLine
  | 0x02 => some .pollBusyReg
  | 0x10 => some .writeCommand
  | 0x11 => some .writeWord
  | 0x12 => some .writeRegister
  | 0x13 => some .setTargetAddr
  | 0x14 => some (.writeArgs cnt)
  | 0x15 => some .readWord
  | 0x16 => some .readWords
  | 0x17 => some .readRegister
  | 0x20 => some .resetPanel
  | 0x21 => some .systemRun
  | 0x22 => some .configure
  | 0x23 => some .getDeviceInfo
  | 0x24 => some .setup
  | 0x30 => some .setPixel
  | 0x31 => some .readFbByte
  | 0x40 => some .writeRegion
  | 0x41 => some .updateRegion
  | 0x42 => some .writeDisplay
  | 0x43 => some .clear
  | _ => none

/-- The decoder: the four checks of 30_encoding.md R114, in their order. -/
def decode (c : Word) : Except DecodeError Instr :=
  if rsvField c ≠ 0 then .error .reservedBits
  else
    match instrOfOpcode (cntField c) (opcField c) with
    | none => .error .reservedOpcode
    | some i =>
      if opcField c ≠ 0x14 ∧ cntField c ≠ 0 then .error .countNotZero
      else if opcField c = 0x14 ∧ Config.P_MAX_ARGS < (cntField c).toNat then .error .countTooLarge
      else .ok i

/-- The instruction the decoder reads from a table word: `w` in `nbits` bits, every further bit of the one
16-bit command word 0. A command is one 16-bit register write, so no byte order arises (20_memory.md R84). -/
def decodeTableWord (nbits w : Nat) : Option Instr :=
  if nbits ≤ 16 ∧ w < 2 ^ nbits then
    match decode (BitVec.ofNat 16 w) with
    | .ok i => some i
    | .error _ => none
  else none

/-- Column OPC of 30_encoding.md R112. -/
def Instr.opcode : Instr → BitVec 8
  | .nop => 0x00
  | .waitBusyLine => 0x01
  | .pollBusyReg => 0x02
  | .writeCommand => 0x10
  | .writeWord => 0x11
  | .writeRegister => 0x12
  | .setTargetAddr => 0x13
  | .writeArgs _ => 0x14
  | .readWord => 0x15
  | .readWords => 0x16
  | .readRegister => 0x17
  | .resetPanel => 0x20
  | .systemRun => 0x21
  | .configure => 0x22
  | .getDeviceInfo => 0x23
  | .setup => 0x24
  | .setPixel => 0x30
  | .readFbByte => 0x31
  | .writeRegion => 0x40
  | .updateRegion => 0x41
  | .writeDisplay => 0x42
  | .clear => 0x43

/-- Column CNT of 30_encoding.md R112: used by WRITE_ARGS only, 0 for every other opcode. -/
def Instr.count : Instr → BitVec 4
  | .writeArgs cnt => cnt
  | .nop | .waitBusyLine | .pollBusyReg | .writeCommand | .writeWord | .writeRegister | .setTargetAddr
  | .readWord | .readWords | .readRegister | .resetPanel | .systemRun | .configure | .getDeviceInfo
  | .setup | .setPixel | .readFbByte | .writeRegion | .updateRegion | .writeDisplay | .clear => 0

/-- The command word {RSV = 0, CNT, OPC} of an instruction (30_encoding.md R110). -/
def encode (i : Instr) : Word := (0#4 : BitVec 4) ++ i.count ++ i.opcode

end Sys2Proof
end

