-- ==== Sys2Proof/Machine/State.lean ====
section
/-! DEFINITION. The types of the machine and its whole state as plain data (10_state.md), with the state after
engine reset (10_state.md R60). Operations on the state stand in Machine/Flags.lean and Machine/Ops.lean. -/

namespace Sys2Proof.Machine

/-- The lifecycle state LC (10_state.md R34): the values 6 and 7 are never produced and have no constructor. -/
inductive Lifecycle where
  | unreset | reset | running | configured | ready | failed
deriving DecidableEq, Repr, Inhabited

/-- The causes of 60_exceptions.md R301; the code of each is its STATUS bit number. -/
inductive Cause where
  | warnTimeout | errIllegal | errOverrun | errState | errBounds | errAlign | errAlloc | errDevinfo
deriving DecidableEq, Repr

/-- The select output SEL_OUT (10_state.md R49). -/
inductive SelLevel where
  | active | inactive
deriving DecidableEq, Repr, Inhabited

/-- The reset output RST_OUT (10_state.md R49); low is the asserted level. -/
inductive RstLevel where
  | low | high
deriving DecidableEq, Repr, Inhabited

/-- An event of TRACE (00_scope.md R14): `SEL+`/`SEL-`, `TX w`, `RX w`, `W`, `W!`, `RST0`/`RST1`, `DLY n`, `P!`. -/
inductive Event where
  | sel (level : SelLevel)
  | tx (w : Word)
  | rx (w : Word)
  | ready
  | readyTimeout
  | rst (level : RstLevel)
  | delay (ms : Nat)
  | pollTimeout
deriving DecidableEq, Repr

/-- The wire primitives a rule lists (00_scope.md R13), before the CONTROLLER has made its choices. -/
inductive Prim where
  | sel (level : SelLevel)
  | tx (w : Word)
  | rx
  | waitReady
  | rst (level : RstLevel)
  | delay (ms : Nat)
deriving DecidableEq, Repr

/-- A micro-step (41_handshake.md R150): one wire primitive with the choice the environment made in it, the end of a
poll by DEADLINE, or one pure state update that an operation rule names: one register, entry, flag or byte. -/
inductive Micro where
  | sel (level : SelLevel)
  | tx (w : Word)
  | rx (w : Word)
  | waitReady (timedOut : Bool)
  | rst (level : RstLevel)
  | delay (ms : Nat)
  | pollTimeout
  | setRdata (w : Word)
  | setRdbuf (i : Nat) (w : Word)
  | setPanelW (w : Word)
  | setPanelH (w : Word)
  | setImgbufL (w : Word)
  | setImgbufH (w : Word)
  | setFwver (i : Fin 8) (w : Word)
  | setLutver (i : Fin 8) (w : Word)
  | setGeomKnown
  | writeFb (a : Nat) (v : Byte)
  | setLc (l : Lifecycle)
  | setSticky (c : Cause)
deriving DecidableEq, Repr

/-- The sequencer SEQ (10_state.md R44): IDLE, or the running operation, its position and the rest of its micro-step
sequence, with loop iterations unrolled as performed (log 2, log 24). -/
inductive Seq where
  | idle
  | running (op : Instr) (pos : Nat) (rest : List Micro)
deriving DecidableEq, Repr

/-- The operand latches (10_state.md R47). -/
structure Latches where
  x : Vector Word Config.P_ARGS
  reversed : Bool
  cmd : Word
deriving DecidableEq, Repr

/-- The coming choices of CONTROLLER and DEADLINE (00_scope.md R7): scripted ones first, then free values numbered
by the counters (log 3). -/
structure Env where
  /-- Per wait: the first sampled level of RDY_IN and the further ones before its DEADLINE. -/
  waits : List (Bool × List Bool)
  waitDraws : Nat
  /-- The words the controller drives. -/
  rx : List Word
  rxDraws : Nat
  /-- Per poll: how many reads after the first fit before its DEADLINE. -/
  polls : List Nat
  pollDraws : Nat
deriving DecidableEq, Repr

/-- The host registers of the map of 10_state.md R30, with the reserved offsets. -/
inductive HostReg where
  | cmd | status | ctrl | rdata
  | arg (i : Fin Config.P_ARGS)
  | panelW | panelH | imgbufL | imgbufH
  | fwver (i : Fin 8)
  | lutver (i : Fin 8)
  | rdbuf (i : Fin Config.P_RDBUF_WORDS)
  | reserved
deriving DecidableEq, Repr

/-- What another agent does to the block between two micro-steps: a host access of some width in bits at an offset,
or a change of the reset input RESET_IN (70_reset_and_hazards.md R340). -/
inductive HostAct where
  | write (width : Nat) (off : BitVec 8) (v : Word)
  | read (width : Nat) (off : BitVec 8)
  | resetIn (asserted : Bool)
deriving DecidableEq, Repr

/-- A coming host act and the point at which it lands: after that many further micro-steps of the running operation,
or (`none`) once the engine is idle. An act always lands at once on an idle engine (log 1). -/
structure HostStep where
  after : Option Nat
  act : HostAct
deriving DecidableEq, Repr

/-- The framebuffer RAM: the bytes written since engine reset, by strictly rising address. An address not listed has no
known byte: reading it gives a free value (log 6, log 7). -/
abbrev Memory := List Host.Cell

/-- Why a step stops with a fault. -/
inductive Fault where
  /-- An operation would reach a framebuffer address outside `0 .. P_FB_CAPACITY - 1`, which does not exist
  (20_memory.md R80). Raised by SET_PIXEL and WRITE_DISPLAY, and only under a geometry no run reaches (log 18). Safe. -/
  | framebufferAddress
deriving DecidableEq, Repr

/-- Why an operation ends before its first micro-step: a rejection that sets a sticky bit, or a fault. -/
inductive Stop where
  | reject (c : Cause)
  | fault (f : Fault)
deriving DecidableEq, Repr

/-- Why a step has no meaning. -/
inductive Refusal where
  /-- An instruction without a meaning yet, by its mnemonic in the opcode table. Raised by `exec` only. Safe. -/
  | notModelled (mnemonic : String)
  /-- A host access that is not 16 bits wide: outside the interface (20_memory.md R84). Raised by `hostAct`. Safe. -/
  | hostAccessWidth
  /-- A host access at an odd offset: outside the interface (20_memory.md R84). Raised by `hostAct`. Safe. -/
  | hostAccessOddOffset
deriving DecidableEq, Repr

/-- The whole state of the block (10_state.md), and after it the model's own fields for what lies outside the block. -/
structure State where
  /-- CMD, the last word written (R32). -/
  cmd : Word
  /-- CTRL.REVERSED (R41); CTRL bits 15:1 have no storage. -/
  reversed : Bool
  /-- RDATA (R42). -/
  rdata : Word
  /-- ARG0..ARG8 (R31). -/
  args : Vector Word Config.P_ARGS
  /-- Device information (R45). -/
  panelW : Word
  panelH : Word
  imgbufL : Word
  imgbufH : Word
  fwver : Vector Word 8
  lutver : Vector Word 8
  /-- RDBUF0.. (R43). -/
  rdbuf : Vector Word Config.P_RDBUF_WORDS
  /-- STATUS.LC (R34); STATUS.READY is computed from it (R35). -/
  lc : Lifecycle
  /-- STATUS.GEOM_KNOWN (R35). -/
  geomKnown : Bool
  /-- STATUS bits 15:8 (R36): bit `k` here is STATUS bit `8 + k`. -/
  sticky : BitVec 8
  /-- SEQ (R44); STATUS.BUSY is computed from it (R33). -/
  seq : Seq
  /-- The operand latches (R47). -/
  lat : Latches
  /-- SEL_OUT and RST_OUT (R49). -/
  selOut : SelLevel
  rstOut : RstLevel
  /-- The framebuffer RAM (R51). -/
  fb : Memory
  /-- TRACE with its newest event first; `State.trace` reads it in order (00_scope.md R14). -/
  traceRev : List Event
  /-- The level of the input RESET_IN (70_reset_and_hazards.md R340). -/
  resetIn : Bool
  /-- How many engine resets there have been: it numbers the power-on contents of the RAM (log 6). -/
  fbEpoch : Nat
  /-- The coming choices of CONTROLLER and DEADLINE. -/
  env : Env
  /-- The coming acts of the host and of the platform's reset input, the next one first. -/
  inbox : List HostStep
  /-- Offsets and values of the host reads so far, newest first: the data the block put on its host port. -/
  busReads : List (BitVec 8 × Word)
  /-- How many free values host reads have returned while the engine was busy (10_state.md R54). -/
  readDraws : Nat
deriving DecidableEq, Repr

/-- Nothing scripted: every choice of CONTROLLER and DEADLINE is a free value. -/
def Env.unscripted : Env := ⟨[], 0, [], 0, [], 0⟩

/-- The state after engine reset (10_state.md R60). DESIGN CHOICE: the latches, which the spec calls unspecified and never
read, are 0 (log 8), and the model's own fields are empty (log 17). -/
def State.reset : State where
  cmd := 0
  reversed := false
  rdata := 0
  args := Vector.replicate _ 0
  panelW := 0
  panelH := 0
  imgbufL := 0
  imgbufH := 0
  fwver := Vector.replicate _ 0
  lutver := Vector.replicate _ 0
  rdbuf := Vector.replicate _ 0
  lc := .unreset
  geomKnown := false
  sticky := 0
  seq := .idle
  lat := ⟨Vector.replicate _ 0, false, 0⟩
  selOut := .inactive
  rstOut := .high
  fb := []
  traceRev := []
  resetIn := false
  fbEpoch := 0
  env := Env.unscripted
  inbox := []
  busReads := []
  readDraws := 0

end Sys2Proof.Machine
end

