-- ==== Sys2Proof/Machine/Flags.lean ====
section
/-! DEFINITION. STATUS and CTRL as words, the sticky flags with their codes, and the lifecycle gate
(10_state.md R33 to R41, 60_exceptions.md R301, R303). The block has no condition codes (10_state.md R55). -/

namespace Sys2Proof.Machine

/-- The encoding of LC in STATUS bits 3:1 (10_state.md R34). -/
def Lifecycle.code : Lifecycle → BitVec 3
  | .unreset => 0
  | .reset => 1
  | .running => 2
  | .configured => 3
  | .ready => 4
  | .failed => 5

/-- The cause code, which is the STATUS bit number (60_exceptions.md R301). -/
def Cause.code : Cause → Nat
  | .warnTimeout => 8
  | .errIllegal => 9
  | .errOverrun => 10
  | .errState => 11
  | .errBounds => 12
  | .errAlign => 13
  | .errAlloc => 14
  | .errDevinfo => 15

/-- The one-bit mask of a cause within STATUS bits 15:8. -/
def stickyMask (c : Cause) : BitVec 8 := (1 : BitVec 8) <<< (c.code - 8)

/-- Sets one sticky bit (10_state.md R36); a bit already set stays set (60_exceptions.md R307). -/
def State.setFlag (s : State) (c : Cause) : State := { s with sticky := s.sticky ||| stickyMask c }

/-- Reads one sticky bit. -/
def State.flag (s : State) (c : Cause) : Bool := s.sticky.getLsbD (c.code - 8)

/-- A host write of STATUS: every bit of 15:8 written as 1 is cleared, bits 7:0 are ignored (10_state.md R36). -/
def State.clearFlags (s : State) (w : Word) : State := { s with sticky := s.sticky &&& ~~~(w.extractLsb' 8 8) }

/-- STATUS.BUSY = (SEQ ≠ IDLE) (10_state.md R33, R44). -/
def State.busy (s : State) : Bool := decide (s.seq ≠ .idle)

/-- STATUS.READY = (LC = READY) (10_state.md R35). -/
def State.readyBit (s : State) : Bool := decide (s.lc = .ready)

/-- STATUS read whole: sticky 15:8, zeros 7:6, GEOM_KNOWN 5, READY 4, LC 3:1, BUSY 0 (10_state.md R33 to R36). -/
def State.statusWord (s : State) : Word :=
  s.sticky ++ (0#2 : BitVec 2) ++ BitVec.ofBool s.geomKnown ++ BitVec.ofBool s.readyBit ++ s.lc.code
    ++ BitVec.ofBool s.busy

/-- CTRL read whole: bits 15:1 read 0 (10_state.md R41). -/
def State.ctrlWord (s : State) : Word := (0#15 : BitVec 15) ++ BitVec.ofBool s.reversed

/-- The lifecycle gate of 60_exceptions.md R303: the states in which an operation is accepted. WRITE_DISPLAY has no gate. -/
def gateAllows : Instr → Lifecycle → Bool
  | .nop, _ | .readFbByte, _ | .writeDisplay, _ => true
  | .setPixel, l => decide (l ≠ .failed)
  | .waitBusyLine, l | .pollBusyReg, l | .writeCommand, l | .writeWord, l | .writeRegister, l
  | .setTargetAddr, l | .writeArgs _, l | .readWord, l | .readWords, l | .readRegister, l =>
    decide (l ≠ .unreset ∧ l ≠ .failed)
  | .resetPanel, l | .setup, l => decide (l = .unreset)
  | .systemRun, l => decide (l = .reset)
  | .configure, l => decide (l = .running)
  | .getDeviceInfo, l => decide (l = .configured)
  | .writeRegion, l | .updateRegion, l | .clear, l => decide (l = .ready)

end Sys2Proof.Machine
end

