-- ==== Sys2Proof/Machine/Operands.lean ====
section
/-! DEFINITION. Operand assembly, geometry, byte order, and the pure functions of the packer and the writer
(30_encoding.md R111, 10_state.md R48, 20_memory.md R85 to R87, 44_codec.md R240 to R242, 45_writer.md R260 to R262). -/

namespace Sys2Proof.Machine

/-- Operand `lat.x[i]` (00_scope.md R10). -/
def operand (l : Latches) (i : Fin Config.P_ARGS) : Word := l.x.get i

/-- The 32-bit value `{hi, lo}` (00_scope.md R9, 30_encoding.md R111). -/
def word32 (hi lo : Word) : BitVec 32 := hi ++ lo

/-- Bits 31:16 of a 32-bit value. -/
def highHalf (a : BitVec 32) : Word := a.extractLsb' 16 16

/-- Bits 15:0 of a 32-bit value. -/
def lowHalf (a : BitVec 32) : Word := a.extractLsb' 0 16

/-- The 32-bit operand `{lat.x[i+1], lat.x[i]}` of READ_FB_BYTE, SET_TARGET_ADDR (i = 0) and WRITE_REGION (i = 4)
(30_encoding.md R113). -/
def operand32 (l : Latches) (lo hi : Fin Config.P_ARGS) : BitVec 32 := word32 (operand l hi) (operand l lo)

/-- SET_PIXEL's colour `lat.x[2][3:0]`; bits 15:4 are ignored (30_encoding.md R111). -/
def colourOperand (l : Latches) : BitVec 4 := (operand l 2).extractLsb' 0 4

/-- CLEAR's flag `lat.x[0][0]`; bits 15:1 are ignored (30_encoding.md R111). -/
def initOperand (l : Latches) : Bool := (operand l 0).getLsbD 0

/-- The argument words `lat.x[1..n]` of WRITE_ARGS, `x[1]` first (42_registerio.md R184). -/
def argOperands (l : Latches) (n : Nat) : List Word := (l.x.toList.drop 1).take n

/-- What an accepted CMD write copies into the latches (10_state.md R47). -/
def State.latchNow (s : State) : Latches := ⟨s.args, s.reversed, s.cmd⟩

/-! ## Geometry (10_state.md R48) -/

/-- The current width `W`. -/
def State.width (s : State) : Word := if s.geomKnown then s.panelW else Config.P_DEFAULT_W

/-- The current height `H`. -/
def State.height (s : State) : Word := if s.geomKnown then s.panelH else Config.P_DEFAULT_H

/-- `FB_LEN` of a geometry: `(W / 2) * H`, exact. -/
def fbLen (w h : Word) : Nat := w.toNat / 2 * h.toNat

/-- The image buffer address `{IMGBUF_H, IMGBUF_L}` (10_state.md R45). -/
def State.imgbuf (s : State) : BitVec 32 := word32 s.imgbufH s.imgbufL

/-! ## The pixel packer (44_codec.md) -/

/-- `pack(old, parity, c)`: odd x replaces the low nibble, even x the high one (R240). -/
def packPixel (old : Byte) (odd : Bool) (c : BitVec 4) : Byte :=
  if odd then old.extractLsb' 4 4 ++ c else c ++ old.extractLsb' 0 4

/-- `index(x, y, W) = y * (W / 2) + x / 2`, exact (R241). -/
def pixelIndex (x y w : Word) : Nat := y.toNat * (w.toNat / 2) + x.toNat / 2

/-- `in_bounds(x, y)` in a geometry (R242). -/
def inBounds (x y w h : Word) : Bool := decide (x.toNat < w.toNat) && decide (y.toNat < h.toNat)

/-! ## The display writer (45_writer.md) -/

/-- `encode_word(b0, b1, rev)`: `{b0, b1}`, inverted when not reversed (R260, 20_memory.md R87). -/
def encodeWord (b0 b1 : Byte) (reversed : Bool) : Word :=
  let raw : Word := b0 ++ b1
  if reversed then raw else 0xFFFF - raw

/-- `clip(o, e, L) = min(e, L - o)`, used only for `o ≤ L` (R261). -/
def clipExtent (o e l : Word) : Word := BitVec.ofNat 16 (min e.toNat (l.toNat - o.toNat))

/-- `words(w, h) = (w / 4) * h`, exact (R262). -/
def areaWords (w h : Word) : Nat := w.toNat / 4 * h.toNat

/-! ## Wire byte order (20_memory.md R85) -/

/-- The two bytes of a unit in the order they travel: high byte first. -/
def wireBytes (w : Word) : List Byte := [w.extractLsb' 8 8, w.extractLsb' 0 8]

/-- The unit received as a first and a second byte (41_handshake.md R153). -/
def unitOfBytes (first second : Byte) : Word := first ++ second

/-! ## Pin levels (00_scope.md R19, 10_state.md R49, 41_handshake.md R151) -/

/-- The level of the select pin. -/
def selPin : SelLevel → Bool
  | .active => Config.P_SEL_ACTIVE_LEVEL
  | .inactive => !Config.P_SEL_ACTIVE_LEVEL

/-- The level of the reset pin: low is the asserted level. -/
def rstPin : RstLevel → Bool
  | .low => Config.P_RST_ASSERT_LEVEL
  | .high => !Config.P_RST_ASSERT_LEVEL

end Sys2Proof.Machine
end

