-- ==== Sys2Proof/Machine/Frames.lean ====
section
/-! DEFINITION. The command encoder: the select frames as lists of wire primitives (30_encoding.md R120 to R127), the
environment's choices, and scripts, which turn an operation's primitives and those choices into its unrolled micro-step
sequence (10_state.md R44, 41_handshake.md R150). -/

namespace Sys2Proof.Machine

/-! ## Frames -/

/-- Command frame (30_encoding.md R122). -/
def commandFrame (c : Word) : List Prim :=
  [.sel .active, .waitReady, .tx Config.K_PRE_CMD, .waitReady, .tx c, .sel .inactive]

/-- Write-data frame (30_encoding.md R123). -/
def writeFrame (d : Word) : List Prim :=
  [.sel .active, .waitReady, .tx Config.K_PRE_WR, .waitReady, .tx d, .sel .inactive]

/-- The units of a data phase: a wait before every unit but the first if `each` (41_handshake.md R157). -/
def dataPhase (each : Bool) (units : List Prim) : List Prim :=
  if each then units.intersperse .waitReady else units

/-- Bulk-read frame of `n` words; the read frame of R124 is the case `n = 1` (30_encoding.md R124, R125). -/
def bulkReadFrame (each : Bool) (n : Nat) : List Prim :=
  [.sel .active, .waitReady, .tx Config.K_PRE_RD, .waitReady, .tx Config.P_DUMMY, .waitReady]
    ++ dataPhase each (List.replicate n .rx) ++ [.sel .inactive]

/-- Read frame of one word (30_encoding.md R124, 42_registerio.md R186). -/
def readFrame : List Prim := bulkReadFrame false 1

/-- Stream frame of data words (30_encoding.md R126). -/
def streamFrame (each : Bool) (ws : List Word) : List Prim :=
  [.sel .active, .waitReady, .tx Config.K_PRE_WR, .waitReady] ++ dataPhase each (ws.map .tx) ++ [.sel .inactive]

/-- `write_args(c, a)`: the command, then each argument in its own frame (42_registerio.md R184). -/
def argsFrames (c : Word) (args : List Word) : List Prim := commandFrame c ++ args.flatMap writeFrame

/-- `write_register(a, v)`: three frames (42_registerio.md R182). -/
def writeRegisterFrames (a v : Word) : List Prim := commandFrame Config.K_REG_WR ++ writeFrame a ++ writeFrame v

/-- `register_read(a)`: command, address, then one read frame (42_registerio.md R188). -/
def readRegisterFrames (a : Word) : List Prim := commandFrame Config.K_REG_RD ++ writeFrame a ++ readFrame

/-- `set_target_memory_address(A)`: high half to `A_LISAR + 2`, then low half to `A_LISAR` (42_registerio.md R183). -/
def targetAddrFrames (a : BitVec 32) : List Prim :=
  writeRegisterFrames (Config.A_LISAR + 2) (highHalf a) ++ writeRegisterFrames Config.A_LISAR (lowHalf a)

/-! ## The environment's choices (00_scope.md R7) -/

/-- The loop of `WaitReady()` over the sampled levels: the wait ends ready at the first ready sample, and by DEADLINE
after the last sample if none was ready (41_handshake.md R154, R158). The answer says whether it timed out. -/
def samplesTimeOut : List Bool → Bool
  | [] => true
  | level :: more => if level == Config.P_READY_LEVEL then false else samplesTimeOut more

/-- The outcome of the next wait. Its samples are never empty, so DEADLINE comes only after one that was not ready. -/
def Env.drawWait (e : Env) : Bool × Env :=
  match e.waits with
  | (first, more) :: rest => (samplesTimeOut (first :: more), { e with waits := rest })
  | [] =>
    let levels := Config.readyLevels Config.P_T_BUSY_LINE e.waitDraws
    (samplesTimeOut (levels.1 :: levels.2), { e with waitDraws := e.waitDraws + 1 })

/-- The next received word (41_handshake.md R153). -/
def Env.drawRx (e : Env) : Word × Env :=
  match e.rx with
  | w :: rest => (w, { e with rx := rest })
  | [] => (Config.rxWord e.rxDraws, { e with rxDraws := e.rxDraws + 1 })

/-- How many reads after the first the next poll makes before its DEADLINE, under a window (41_handshake.md R159). -/
def Env.drawPoll (e : Env) (window : Nat) : Nat × Env :=
  match e.polls with
  | n :: rest => (n, { e with polls := rest })
  | [] => (Config.pollReads window e.pollDraws, { e with pollDraws := e.pollDraws + 1 })

/-! ## Scripts -/

/-- A piece of an operation: from the environment's coming choices to its micro-steps and the choices left. -/
abbrev Script := Env → List Micro × Env

/-- The primitives of one or more frames with the environment's choices made in their order. -/
def wire : List Prim → Script
  | [], e => ([], e)
  | .sel level :: ps, e => let r := wire ps e; (.sel level :: r.1, r.2)
  | .tx w :: ps, e => let r := wire ps e; (.tx w :: r.1, r.2)
  | .rst level :: ps, e => let r := wire ps e; (.rst level :: r.1, r.2)
  | .delay ms :: ps, e => let r := wire ps e; (.delay ms :: r.1, r.2)
  | .waitReady :: ps, e => let d := e.drawWait; let r := wire ps d.2; (.waitReady d.1 :: r.1, r.2)
  | .rx :: ps, e => let d := e.drawRx; let r := wire ps d.2; (.rx d.1 :: r.1, r.2)

/-- State updates without a wire primitive. -/
def updates (ms : List Micro) : Script := fun e => (ms, e)

/-- The copy-out of words to RDBUF from entry `i` on, one update per word (42_registerio.md R187). -/
def copyOutFrom : Nat → List Word → List Micro
  | _, [] => []
  | i, w :: ws => .setRdbuf i w :: copyOutFrom (i + 1) ws

/-- One script after another. -/
def andThen (p q : Script) : Script := fun e =>
  let a := p e
  let b := q a.2
  (a.1 ++ b.1, b.2)

/-- The words a sequence of micro-steps received, in order. -/
def received : List Micro → List Word
  | [] => []
  | .rx w :: ms => w :: received ms
  | .sel _ :: ms | .tx _ :: ms | .waitReady _ :: ms | .rst _ :: ms | .delay _ :: ms | .pollTimeout :: ms
  | .setRdata _ :: ms | .setRdbuf _ _ :: ms | .setPanelW _ :: ms | .setPanelH _ :: ms | .setImgbufL _ :: ms
  | .setImgbufH _ :: ms | .setFwver _ _ :: ms | .setLutver _ _ :: ms | .setGeomKnown :: ms
  | .writeFb _ _ :: ms | .setLc _ :: ms | .setSticky _ :: ms => received ms

/-- A script, then one that depends on the words it received. -/
def thenReceived (p : Script) (k : List Word → Script) : Script := fun e =>
  let a := p e
  let b := k (received a.1) a.2
  (a.1 ++ b.1, b.2)

/-- The window of a poll in ms: operand 0 selects `P_T_BUSY_REG`; it only names the DEADLINE (41_handshake.md R159). -/
def pollWindow (t : Word) : Nat := if t = 0 then Config.P_T_BUSY_REG else t.toNat

/-- The reads of a poll: up to `n` more after the first; the poll ends at the first word that is 0, and by DEADLINE
after the last read otherwise (41_handshake.md R159); that end is one micro-step (log 19). -/
def pollReadsUpTo : Nat → Script
  | 0 => thenReceived (wire (readRegisterFrames Config.A_LUTAFSR)) fun ws =>
      if ws.getLastD 0 = 0 then updates [] else updates [.pollTimeout]
  | n + 1 => thenReceived (wire (readRegisterFrames Config.A_LUTAFSR)) fun ws =>
      if ws.getLastD 0 = 0 then updates [] else pollReadsUpTo n

/-- `poll_busy_register(t)` (41_handshake.md R159). -/
def pollBusyRegister (t : Word) : Script := fun e =>
  let d := e.drawPoll (pollWindow t)
  pollReadsUpTo d.1 d.2

/-- `area_load(x, y, w, h, word)` for the pixel words given (45_writer.md R263). -/
def areaLoad (imgbuf : BitVec 32) (x y w h : Word) (pixels : List Word) : Script :=
  andThen (pollBusyRegister 0) <| wire <|
    targetAddrFrames imgbuf
      ++ argsFrames Config.K_LD_IMG_AREA [Config.K_PACK_FLAGS, x, y, w, h]
      ++ streamFrame Config.P_WAIT_EACH_STREAM_WORD pixels
      ++ commandFrame Config.K_LD_IMG_END

/-- `update_area(x, y, w, h, mode)` on a panel of `panelW` by `panelH` (45_writer.md R264). -/
def updateArea (panelW panelH : Word) (imgbuf : BitVec 32) (x y w h mode : Word) : Script :=
  andThen (pollBusyRegister 0) <| wire <|
    argsFrames Config.K_DPY_BUF_AREA
      [x, y, clipExtent x w panelW, clipExtent y h panelH, mode, lowHalf imgbuf, highHalf imgbuf]

/-- `clear(init)`: a constant word over the whole panel, then the init update if asked for (45_writer.md R273). -/
def clearPanel (panelW panelH : Word) (imgbuf : BitVec 32) (reversed init : Bool) : Script :=
  andThen
    (areaLoad imgbuf 0 0 panelW panelH (List.replicate (areaWords panelW panelH) (encodeWord 0 0 reversed)))
    (if init then updateArea panelW panelH imgbuf 0 0 panelW panelH Config.MODE_INIT else updates [])

end Sys2Proof.Machine
end

