-- ==== Sys2Proof/Machine/Ops.lean ====
section
/-! DEFINITION. The operations over the state that every meaning and every host access goes through: the framebuffer RAM,
TRACE, raising an error, performing a micro-step, giving the engine its turn, issuing an operation, engine reset. -/

namespace Sys2Proof.Machine

/-! ## The framebuffer RAM (20_memory.md R80, R89) -/

/-- The byte written at an address since engine reset, if any (`MemRead`, 00_scope.md R11). -/
def Memory.read : Memory → Nat → Option Byte
  | [], _ => none
  | (k, v) :: rest, a => if k = a then some v else Memory.read rest a

/-- `MemWrite(a, 1, v)`: addresses stay strictly rising. -/
def Memory.write : Memory → Nat → Byte → Memory
  | [], a, v => [(a, v)]
  | (k, u) :: rest, a, v =>
    if a < k then (a, v) :: (k, u) :: rest
    else if k = a then (a, v) :: rest
    else (k, u) :: Memory.write rest a v

/-- What `MemWrite(a, 1, 0x00)` for each `a` below `n`, in order, leaves (43_init.md R214). -/
def Memory.zeroFill : Nat → Memory → Memory
  | 0, m => m
  | n + 1, m => (Memory.zeroFill n m).write n 0

/-- Addresses strictly rising, the first of them at least `lo`. -/
def risingFrom : Nat → Memory → Bool
  | _, [] => true
  | lo, (k, _) :: rest => decide (lo ≤ k) && risingFrom (k + 1) rest

/-- The canonical form: addresses strictly rising and inside the RAM. An address not listed has no known byte, so no
entry can equal what an unlisted address reads as (log 7). -/
def Memory.wf (m : Memory) : Bool := risingFrom 0 m && m.all (fun c => decide (c.1 < Config.P_FB_CAPACITY))

/-- `FB[a]`: the byte written there, or the free value the RAM held at engine reset (10_state.md R51,
93_implementation_defined.md U4). -/
def State.fbByte (s : State) (a : Nat) : Byte := (s.fb.read a).getD (Config.powerOnByte s.fbEpoch a)

/-! ## TRACE and errors -/

/-- TRACE in order, oldest event first (00_scope.md R14). -/
def State.trace (s : State) : List Event := s.traceRev.reverse

/-- Appends one event to TRACE. -/
def State.emit (s : State) (e : Event) : State := { s with traceRev := e :: s.traceRev }

/-- `raise E`: sets the sticky bit and changes nothing else; no event follows and the engine stays idle
(00_scope.md R12, 60_exceptions.md R300, R306). -/
def State.raise (s : State) (c : Cause) : State := s.setFlag c

/-! ## Micro-steps (41_handshake.md R150 to R159) -/

/-- Word `i` of a device-info record (43_init.md R214). -/
def infoWord (r : List Word) (i : Nat) : Word := r.getD i 0

/-- The effect of one micro-step on everything but SEQ. -/
def State.perform (s : State) : Micro → State
  | .sel level => { s with selOut := level }.emit (.sel level)
  | .tx w => s.emit (.tx w)
  | .rx w => s.emit (.rx w)
  | .waitReady false => s.emit .ready
  | .waitReady true => (s.setFlag .warnTimeout).emit .readyTimeout
  | .rst level => { s with rstOut := level }.emit (.rst level)
  | .delay ms => s.emit (.delay ms)
  | .pollTimeout => (s.setFlag .warnTimeout).emit .pollTimeout
  | .setRdata w => { s with rdata := w }
  | .setRdbuf i w => { s with rdbuf := s.rdbuf.setIfInBounds i w }
  | .setPanelW w => { s with panelW := w }
  | .setPanelH w => { s with panelH := w }
  | .setImgbufL w => { s with imgbufL := w }
  | .setImgbufH w => { s with imgbufH := w }
  | .setFwver i w => { s with fwver := s.fwver.set i w }
  | .setLutver i w => { s with lutver := s.lutver.set i w }
  | .setGeomKnown => { s with geomKnown := true }
  | .writeFb a v => { s with fb := s.fb.write a v }
  | .setLc l => { s with lc := l }
  | .setSticky c => s.setFlag c

/-- SEQ at a position of an operation: IDLE once no micro-step is left (41_handshake.md R150). -/
def seqAt (op : Instr) (pos : Nat) : List Micro → Seq
  | [] => .idle
  | m :: rest => .running op pos (m :: rest)

/-- SEQ set; everything else as it was. -/
def State.withSeq (s : State) (q : Seq) : State := { s with seq := q }

/-- The coming host steps set; everything else as it was. -/
def State.withInbox (s : State) (ib : List HostStep) : State := { s with inbox := ib }

/-- One engine step: SEQ moves forward one micro-step (10_state.md R44). An idle engine does nothing. -/
def State.microStep (s : State) : State :=
  match s.seq with
  | .idle => s
  | .running _ _ [] => s.withSeq .idle
  | .running op pos (m :: rest) => (s.perform m).withSeq (seqAt op (pos + 1) rest)

/-- `n` engine steps. -/
def State.microSteps : Nat → State → State
  | 0, s => s
  | n + 1, s => State.microSteps n s.microStep

/-- How many micro-steps the running operation has left. -/
def Seq.left : Seq → Nat
  | .idle => 0
  | .running _ _ rest => rest.length

/-- How many micro-steps the engine makes before the next host step lands (log 1). -/
def HostStep.lead (h : HostStep) (left : Nat) : Nat :=
  match h.after with
  | none => left
  | some n => min n left

/-- The engine's turn: it runs to completion if no host step is coming, and otherwise up to the point at which the next
one lands, which is then due (41_handshake.md R150, 20_memory.md R96). -/
def State.engineTurn (s : State) : State :=
  match s.inbox with
  | [] => State.microSteps s.seq.left s
  | h :: rest => (State.microSteps (h.lead s.seq.left) s).withInbox ({ h with after := some 0 } :: rest)

/-! ## Issuing an operation (10_state.md R32, 60_exceptions.md R302 to R304) -/

/-- The latches take the operands, CTRL.REVERSED and CMD (10_state.md R47); the environment's choices left are `e`. -/
def State.latched (s : State) (e : Env) : State := { s with lat := s.latchNow, env := e }

/-- Starts an accepted operation: the operands are latched, SEQ holds its micro-steps, and the engine takes its turn
(10_state.md R32, R47). -/
def State.launch (s : State) (op : Instr) (script : Script) : State :=
  ((s.latched (script s.env).2).withSeq (seqAt op 0 (script s.env).1)).engineTurn

/-- A decoded command: overrun, then the lifecycle gate, then the operation's own checks on the operands it would latch,
then its run (60_exceptions.md R304). A rejection changes its sticky bit and nothing else (R306). -/
def State.operate (s : State) (op : Instr) (body : Latches → Except Stop Script) :
    Host.Outcome State Fault Refusal :=
  if s.busy then .next (s.raise .errOverrun)
  else if gateAllows op s.lc = false then .next (s.raise .errState)
  else
    match body s.latchNow with
    | .error (.reject c) => .next (s.raise c)
    | .error (.fault f) => .fault f
    | .ok script => .next (s.launch op script)

/-! ## Engine reset (70_reset_and_hazards.md R340) -/

/-- RESET_IN asserted: every piece of state takes its reset value at once, a running operation is abandoned, and the
RAM holds new unspecified contents. What lies outside the block stays: the environment's and the host's coming acts, and
the values the host has read (log 17). -/
def State.engineReset (s : State) : State :=
  { State.reset with
    resetIn := true
    fbEpoch := s.fbEpoch + 1
    env := s.env
    inbox := s.inbox
    busReads := s.busReads
    readDraws := s.readDraws }

end Sys2Proof.Machine
end

