-- ==== Sys2Proof/Machine/Codec.lean ====
section
/-! DEFINITION. The host operations of the pixel packer: SET_PIXEL and READ_FB_BYTE (44_codec.md R244, R245). -/

namespace Sys2Proof.Machine

/-- SET_PIXEL (R244): out of bounds is a silent end; otherwise one byte is read, packed and written back. -/
def execSetPixel (s : State) : Host.Outcome State Fault Refusal :=
  s.operate .setPixel fun l =>
    let x := operand l 0
    let y := operand l 1
    let a := pixelIndex x y s.width
    if inBounds x y s.width s.height = false then .ok (updates [])
    else if Config.P_FB_CAPACITY ≤ a then .error (.fault .framebufferAddress)
    else .ok (updates [.writeFb a (packPixel (s.fbByte a) (x.getLsbD 0) (colourOperand l))])

/-- READ_FB_BYTE (R245): ERR_BOUNDS beyond the RAM; an unwritten byte reads as its free value. -/
def execReadFbByte (s : State) : Host.Outcome State Fault Refusal :=
  s.operate .readFbByte fun l =>
    let i := (operand32 l 0 1).toNat
    if Config.P_FB_CAPACITY ≤ i then .error (.reject .errBounds)
    else .ok (updates [.setRdata ((s.fbByte i).zeroExtend 16)])

end Sys2Proof.Machine
end

