-- ==== Sys2Proof/Machine/Handshake.lean ====
section
/-! DEFINITION. NOP, WAIT_BUSY_LINE and POLL_BUSY_REG (41_handshake.md R165 to R167). -/

namespace Sys2Proof.Machine

/-- NOP (R165): BUSY goes to 1 and back to 0 with no micro-step between. -/
def execNop (s : State) : Host.Outcome State Fault Refusal :=
  s.operate .nop fun _ => .ok (updates [])

/-- WAIT_BUSY_LINE (R166): one `WaitReady()`, outside any frame. -/
def execWaitBusyLine (s : State) : Host.Outcome State Fault Refusal :=
  s.operate .waitBusyLine fun _ => .ok (wire [.waitReady])

/-- POLL_BUSY_REG (R167). -/
def execPollBusyReg (s : State) : Host.Outcome State Fault Refusal :=
  s.operate .pollBusyReg fun l => .ok (pollBusyRegister (operand l 0))

end Sys2Proof.Machine
end

