-- ==== Sys2Proof/Machine/Init.lean ====
section
/-! DEFINITION. The bring-up: RESET_PANEL, SYSTEM_RUN, CONFIGURE, GET_DEVICE_INFO and SETUP (43_init.md R210 to R216). -/

namespace Sys2Proof.Machine

/-- The body of RESET_PANEL (R211). -/
def resetPanelScript : Script :=
  andThen (wire [.rst .low, .delay Config.P_T_RST_LOW, .rst .high, .delay Config.P_T_RST_SETTLE])
    (updates [.setLc .reset])

/-- The body of SYSTEM_RUN (R212): LC advances even if a wait timed out. -/
def systemRunScript : Script :=
  andThen (wire (commandFrame Config.K_SYS_RUN)) (updates [.setLc .running])

/-- The body of CONFIGURE (R213). -/
def configureScript : Script :=
  andThen
    (wire (writeRegisterFrames Config.A_I80CPCR Config.V_PACK_WRITE_EN
      ++ argsFrames Config.K_VCOM [Config.K_VCOM_MODE_SET, Config.V_VCOM_MV]))
    (updates [.setLc .configured])

/-- Why a device-info record is unusable, if it is: "no data" first, then the capacity (R214). -/
def infoFailure (w h : Word) : Option Cause :=
  if w = 0 ∨ h = 0 ∨ w.toNat % 4 ≠ 0 then some .errDevinfo
  else if Config.P_FB_CAPACITY < fbLen w h then some .errAlloc
  else none

/-- The device-info registers take the words of a record, one update per register (R214). -/
def infoUpdates (r : List Word) : List Micro :=
  [.setPanelW (infoWord r 0), .setPanelH (infoWord r 1), .setImgbufL (infoWord r 2), .setImgbufH (infoWord r 3)]
    ++ (List.finRange 8).map (fun i => .setFwver i (infoWord r (4 + i.val)))
    ++ (List.finRange 8).map (fun i => .setLutver i (infoWord r (12 + i.val)))

/-- The zero-fill of the framebuffer's `n` bytes, one update per byte (R214). -/
def zeroFillUpdates (n : Nat) : List Micro := (List.range n).map fun a => .writeFb a 0

/-- The state updates of GET_DEVICE_INFO after its bulk read, in the order of its pseudocode (R214); its tests and its own
variables are no micro-steps (log 19). -/
def deviceInfoUpdates (r : List Word) : List Micro :=
  copyOutFrom 0 r ++
    match infoFailure (infoWord r 0) (infoWord r 1) with
    | some c => [.setSticky c, .setLc .failed]
    | none =>
      infoUpdates r ++ [.setGeomKnown] ++ zeroFillUpdates (fbLen (infoWord r 0) (infoWord r 1)) ++ [.setLc .ready]

/-- The body of GET_DEVICE_INFO (R214), followed by what depends on the record received. -/
def getDeviceInfoScript (k : List Word → Script) : Script :=
  thenReceived
    (wire (commandFrame Config.K_GET_DEV_INFO
      ++ bulkReadFrame Config.P_WAIT_EACH_STREAM_WORD Config.P_DEVINFO_WORDS))
    fun r => andThen (updates (deviceInfoUpdates r)) (k r)

/-- SETUP's tail: `clear(init = 1)` on the panel just reported, if GET_DEVICE_INFO reached READY (R216). -/
def setupClear (reversed : Bool) (r : List Word) : Script :=
  match infoFailure (infoWord r 0) (infoWord r 1) with
  | some _ => updates []
  | none => clearPanel (infoWord r 0) (infoWord r 1) (word32 (infoWord r 3) (infoWord r 2)) reversed true

/-- RESET_PANEL (R211). -/
def execResetPanel (s : State) : Host.Outcome State Fault Refusal :=
  s.operate .resetPanel fun _ => .ok resetPanelScript

/-- SYSTEM_RUN (R212). -/
def execSystemRun (s : State) : Host.Outcome State Fault Refusal :=
  s.operate .systemRun fun _ => .ok systemRunScript

/-- CONFIGURE (R213). -/
def execConfigure (s : State) : Host.Outcome State Fault Refusal :=
  s.operate .configure fun _ => .ok configureScript

/-- GET_DEVICE_INFO (R214). -/
def execGetDeviceInfo (s : State) : Host.Outcome State Fault Refusal :=
  s.operate .getDeviceInfo fun _ => .ok (getDeviceInfoScript fun _ => updates [])

/-- SETUP (R216): the four bodies without their gates, then the clear with `lat.REVERSED`. -/
def execSetup (s : State) : Host.Outcome State Fault Refusal :=
  s.operate .setup fun l =>
    .ok (andThen resetPanelScript (andThen systemRunScript (andThen configureScript
      (getDeviceInfoScript (setupClear l.reversed)))))

end Sys2Proof.Machine
end

