-- ==== Sys2Proof/Machine/RegisterIO.lean ====
section
/-! DEFINITION. The register and address sequencer: WRITE_COMMAND to READ_REGISTER (42_registerio.md R180 to R188).
These operations are transparent: they send the host's words verbatim (R185). -/

namespace Sys2Proof.Machine

/-- WRITE_COMMAND (R180). -/
def execWriteCommand (s : State) : Host.Outcome State Fault Refusal :=
  s.operate .writeCommand fun l => .ok (wire (commandFrame (operand l 0)))

/-- WRITE_WORD (R181). -/
def execWriteWord (s : State) : Host.Outcome State Fault Refusal :=
  s.operate .writeWord fun l => .ok (wire (writeFrame (operand l 0)))

/-- WRITE_REGISTER (R182). -/
def execWriteRegister (s : State) : Host.Outcome State Fault Refusal :=
  s.operate .writeRegister fun l => .ok (wire (writeRegisterFrames (operand l 0) (operand l 1)))

/-- SET_TARGET_ADDR (R183). -/
def execSetTargetAddr (s : State) : Host.Outcome State Fault Refusal :=
  s.operate .setTargetAddr fun l => .ok (wire (targetAddrFrames (operand32 l 0 1)))

/-- WRITE_ARGS with CNT = `cnt` (R184). A count above `P_MAX_ARGS` has no command word; it raises ERR_ILLEGAL before
the gate, as the decoder does (30_encoding.md R114, log 26). -/
def execWriteArgs (cnt : BitVec 4) (s : State) : Host.Outcome State Fault Refusal :=
  if Config.P_MAX_ARGS < cnt.toNat ∧ s.busy = false then .next (s.raise .errIllegal)
  else s.operate (.writeArgs cnt) fun l => .ok (wire (argsFrames (operand l 0) (argOperands l cnt.toNat)))

/-- READ_WORD (R186): RDATA is written after `Sel(inactive)`. -/
def execReadWord (s : State) : Host.Outcome State Fault Refusal :=
  s.operate .readWord fun _ => .ok (thenReceived (wire readFrame) fun ws => updates [.setRdata (ws.getLastD 0)])

/-- READ_WORDS (R187): ERR_ALLOC beyond the buffer, before any micro-step; the copy-out follows `Sel(inactive)`. -/
def execReadWords (s : State) : Host.Outcome State Fault Refusal :=
  s.operate .readWords fun l =>
    if Config.P_RDBUF_WORDS < (operand l 0).toNat then .error (.reject .errAlloc)
    else .ok (thenReceived (wire (bulkReadFrame Config.P_WAIT_EACH_STREAM_WORD (operand l 0).toNat)) fun ws =>
      updates (copyOutFrom 0 ws))

/-- READ_REGISTER (R188). -/
def execReadRegister (s : State) : Host.Outcome State Fault Refusal :=
  s.operate .readRegister fun l =>
    .ok (thenReceived (wire (readRegisterFrames (operand l 0))) fun ws => updates [.setRdata (ws.getLastD 0)])

end Sys2Proof.Machine
end

