-- ==== Sys2Proof/Machine/Writer.lean ====
section
/-! DEFINITION. The display writer: WRITE_REGION, UPDATE_REGION, WRITE_DISPLAY and CLEAR (45_writer.md R270 to R273). -/

namespace Sys2Proof.Machine

/-- The `n` pixel words of the framebuffer bytes from `src` on (45_writer.md R270, 20_memory.md R87), read when the
operation is accepted (70_reset_and_hazards.md R357, log 27). -/
def State.pixelWords (s : State) (src n : Nat) (reversed : Bool) : List Word :=
  (List.range n).map fun k => encodeWord (s.fbByte (src + 2 * k)) (s.fbByte (src + 2 * k + 1)) reversed

/-- WRITE_REGION (R270): silent beyond the panel, then ERR_ALIGN, then ERR_BOUNDS, in that order. -/
def execWriteRegion (s : State) : Host.Outcome State Fault Refusal :=
  s.operate .writeRegion fun l =>
    let x := operand l 0
    let y := operand l 1
    let w := operand l 2
    let h := operand l 3
    let src := (operand32 l 4 5).toNat
    let n := areaWords w h
    if s.width.toNat < x.toNat ∨ s.height.toNat < y.toNat then .ok (updates [])
    else if x.toNat % 4 ≠ 0 ∨ w.toNat % 4 ≠ 0 then .error (.reject .errAlign)
    else if Config.P_FB_CAPACITY < src + 2 * n then .error (.reject .errBounds)
    else .ok (areaLoad s.imgbuf x y w h (s.pixelWords src n l.reversed))

/-- UPDATE_REGION (R271): MODE_NONE is silent, then an origin beyond the panel raises ERR_BOUNDS. -/
def execUpdateRegion (s : State) : Host.Outcome State Fault Refusal :=
  s.operate .updateRegion fun l =>
    let x := operand l 0
    let y := operand l 1
    let w := operand l 2
    let h := operand l 3
    let mode := operand l 4
    if mode = Config.MODE_NONE then .ok (updates [])
    else if s.width.toNat < x.toNat ∨ s.height.toNat < y.toNat then .error (.reject .errBounds)
    else .ok (updateArea s.width s.height s.imgbuf x y w h mode)

/-- WRITE_DISPLAY (R272): a silent no-op outside READY. -/
def execWriteDisplay (s : State) : Host.Outcome State Fault Refusal :=
  s.operate .writeDisplay fun l =>
    let n := areaWords s.width s.height
    if s.lc ≠ .ready then .ok (updates [])
    else if Config.P_FB_CAPACITY < 2 * n then .error (.fault .framebufferAddress)
    else .ok (andThen
      (areaLoad s.imgbuf 0 0 s.width s.height (s.pixelWords 0 n l.reversed))
      (updateArea s.width s.height s.imgbuf 0 0 s.width s.height Config.MODE_FAST4))

/-- CLEAR (R273): the framebuffer RAM is neither read nor written. -/
def execClear (s : State) : Host.Outcome State Fault Refusal :=
  s.operate .clear fun l => .ok (clearPanel s.width s.height s.imgbuf l.reversed (initOperand l))

end Sys2Proof.Machine
end

