-- ==== Sys2Proof/Machine/Dispatch.lean ====
section
/-! DEFINITION. One arm per host operation: the meaning of each decoded command (30_encoding.md R112). -/

namespace Sys2Proof.Machine

def exec (i : Instr) (s : State) : Host.Outcome State Fault Refusal :=
  match i with
  | .nop => Sys2Proof.Machine.execNop s
  | .waitBusyLine => Sys2Proof.Machine.execWaitBusyLine s
  | .pollBusyReg => Sys2Proof.Machine.execPollBusyReg s
  | .writeCommand => Sys2Proof.Machine.execWriteCommand s
  | .writeWord => Sys2Proof.Machine.execWriteWord s
  | .writeRegister => Sys2Proof.Machine.execWriteRegister s
  | .setTargetAddr => Sys2Proof.Machine.execSetTargetAddr s
  | .writeArgs cnt => Sys2Proof.Machine.execWriteArgs cnt s
  | .readWord => Sys2Proof.Machine.execReadWord s
  | .readWords => Sys2Proof.Machine.execReadWords s
  | .readRegister => Sys2Proof.Machine.execReadRegister s
  | .resetPanel => Sys2Proof.Machine.execResetPanel s
  | .systemRun => Sys2Proof.Machine.execSystemRun s
  | .configure => Sys2Proof.Machine.execConfigure s
  | .getDeviceInfo => Sys2Proof.Machine.execGetDeviceInfo s
  | .setup => Sys2Proof.Machine.execSetup s
  | .setPixel => Sys2Proof.Machine.execSetPixel s
  | .readFbByte => Sys2Proof.Machine.execReadFbByte s
  | .writeRegion => Sys2Proof.Machine.execWriteRegion s
  | .updateRegion => Sys2Proof.Machine.execUpdateRegion s
  | .writeDisplay => Sys2Proof.Machine.execWriteDisplay s
  | .clear => Sys2Proof.Machine.execClear s

end Sys2Proof.Machine
end

