-- ==== Sys2Proof/Machine/HostBus.lean ====
section
/-! DEFINITION. The host register interface: the register map, reads and writes and their side effects
(10_state.md R30 to R32, R36, R41, R53, R54; 20_memory.md R84, R92), and the reset input (70_reset_and_hazards.md R340). -/

namespace Sys2Proof.Machine

/-- The register at an offset, by the map of 10_state.md R30. Odd offsets are outside the interface (`hostAct` refuses
them); they name nothing here. -/
def hostReg (off : BitVec 8) : HostReg :=
  let o := off.toNat
  if o % 2 = 1 then .reserved
  else if o = 0x00 then .cmd
  else if o = 0x02 then .status
  else if o = 0x04 then .ctrl
  else if o = 0x06 then .rdata
  else if o < 0x1A then .arg (Fin.ofNat _ ((o - 0x08) / 2))
  else if o < 0x20 then .reserved
  else if o = 0x20 then .panelW
  else if o = 0x22 then .panelH
  else if o = 0x24 then .imgbufL
  else if o = 0x26 then .imgbufH
  else if o < 0x38 then .fwver (Fin.ofNat _ ((o - 0x28) / 2))
  else if o < 0x48 then .lutver (Fin.ofNat _ ((o - 0x38) / 2))
  else if o < 0x80 then .reserved
  else if o < 0x80 + 2 * Config.P_RDBUF_WORDS then .rdbuf (Fin.ofNat _ ((o - 0x80) / 2))
  else .reserved

/-- The value a register shows the host while the engine is idle; reserved offsets read 0 (10_state.md R30, R53). -/
def State.regValue (s : State) : HostReg → Word
  | .cmd => s.cmd
  | .status => s.statusWord
  | .ctrl => s.ctrlWord
  | .rdata => s.rdata
  | .arg i => s.args.get i
  | .panelW => s.panelW
  | .panelH => s.panelH
  | .imgbufL => s.imgbufL
  | .imgbufH => s.imgbufH
  | .fwver i => s.fwver.get i
  | .lutver i => s.lutver.get i
  | .rdbuf i => s.rdbuf.get i
  | .reserved => 0

/-- The registers a running operation may be writing: a read of one while BUSY is a draw (10_state.md R54). -/
def drawnWhileBusy : HostReg → Bool
  | .rdata | .rdbuf _ | .panelW | .panelH | .imgbufL | .imgbufH | .fwver _ | .lutver _ => true
  | .cmd | .status | .ctrl | .arg _ | .reserved => false

/-- A host read: its value goes to the host, and nothing in the block changes (20_memory.md R92). -/
def State.hostRead (s : State) (off : BitVec 8) : State :=
  if s.busy && drawnWhileBusy (hostReg off) then
    { s with busReads := (off, Config.busyRead s.readDraws) :: s.busReads, readDraws := s.readDraws + 1 }
  else { s with busReads := (off, s.regValue (hostReg off)) :: s.busReads }

/-- CMD holds the last word written to it (10_state.md R32). -/
def State.withCmd (s : State) (w : Word) : State := { s with cmd := w }

/-- A host write of CMD. CMD takes the word written in every case. While BUSY the command is dropped with ERR_OVERRUN,
undecoded; an illegal word raises ERR_ILLEGAL; a legal one is run (10_state.md R32, 30_encoding.md R114,
60_exceptions.md R302, R304). -/
def State.writeCmd (s : State) (w : Word) : Host.Outcome State Fault Refusal :=
  if s.busy then .next ((s.withCmd w).raise .errOverrun)
  else
    match decode w with
    | .error _ => .next ((s.withCmd w).raise .errIllegal)
    | .ok i => exec i (s.withCmd w)

/-- A host write. Registers that are read-only to the host and reserved offsets ignore it
(10_state.md R30, R53; 20_memory.md R92; log 13). -/
def State.hostWrite (s : State) (off : BitVec 8) (w : Word) : Host.Outcome State Fault Refusal :=
  match hostReg off with
  | .cmd => s.writeCmd w
  | .status => .next (s.clearFlags w)
  | .ctrl => .next { s with reversed := w.getLsbD 0 }
  | .arg i => .next { s with args := s.args.set i w }
  | .rdata | .panelW | .panelH | .imgbufL | .imgbufH | .fwver _ | .lutver _ | .rdbuf _ | .reserved => .next s

/-- Why a host access is outside the interface, if it is (20_memory.md R84). -/
def accessRefusal (width : Nat) (off : BitVec 8) : Option Refusal :=
  if width ≠ 16 then some .hostAccessWidth
  else if off.toNat % 2 = 1 then some .hostAccessOddOffset
  else none

/-- One act of the host or of the reset input. While RESET_IN is asserted every piece of state keeps its reset value,
so a write is lost (70_reset_and_hazards.md R340, log 16). -/
def State.hostAct (s : State) : HostAct → Host.Outcome State Fault Refusal
  | .resetIn true => .next s.engineReset
  | .resetIn false => .next { s with resetIn := false }
  | .read width off =>
    match accessRefusal width off with
    | some r => .refused r
    | none => .next (s.hostRead off)
  | .write width off w =>
    match accessRefusal width off with
    | some r => .refused r
    | none => if s.resetIn then .next s else s.hostWrite off w

/-- One step of the machine: the next host step if it is due, and otherwise the engine's turn. A host step is due when the
engine is idle or has made the micro-steps it waits for (41_handshake.md R150, log 1). -/
def State.advance (s : State) : Host.Outcome State Fault Refusal :=
  match s.inbox with
  | [] => .next s.engineTurn
  | h :: rest =>
    if s.busy && decide (h.after ≠ some 0) then .next s.engineTurn
    else (s.withInbox rest).hostAct h.act

/-- A host write of CMD as the coming host step of an idle block out of reset (log 20). -/
def State.withCommand (s : State) (w : Word) : State :=
  { s with
    resetIn := false
    seq := .idle
    inbox := ⟨some 0, .write 16 0x00 w⟩ :: s.inbox }

end Sys2Proof.Machine
end

