-- ==== Sys2Proof/Machine/Step.lean ====
section
/-! DEFINITION. The machine's step, and the placing of a command word where the next step runs it. -/

namespace Sys2Proof.Machine

/-- One step: a host step or the engine's turn (00_scope.md R7, 20_memory.md R96). -/
def step (s : State) : Host.Outcome State Fault Refusal := s.advance

/-- The block fetches no instructions (10_state.md R44): a command comes from the host's write of CMD, which this makes
the very next step. The word is `w` in `nbits` bits, the bits above 0 (log 20). -/
def State.withFetchWord (s : State) (nbits w : Nat) : State := s.withCommand (BitVec.ofNat 16 (w % 2 ^ nbits))

end Sys2Proof.Machine
end

