-- ==== Sys2Proof/Machine/HostAsm.lean ====
section
/-! DEFINITION. The spec's host notation (30_encoding.md R117, R118) as host steps: what a host program asks of the
register interface. Comments of the notation have no counterpart. -/

namespace Sys2Proof.Machine

/-- A source line of the notation (R117). -/
inductive AsmLine where
  | arg (i : Fin Config.P_ARGS) (v : Word)
  | ctrl (v : Word)
  | clrst
  | waitIdle
  | rd (off : BitVec 8)
  | op (i : Instr)
deriving DecidableEq, Repr

/-- The host access of a line. Every access lands as soon as it may; WAITIDLE, a host loop of STATUS reads, is the read
that finds BUSY = 0 (log 25). -/
def AsmLine.step : AsmLine → HostStep
  | .arg i v => ⟨some 0, .write 16 (BitVec.ofNat 8 (0x08 + 2 * i.val)) v⟩
  | .ctrl v => ⟨some 0, .write 16 0x04 v⟩
  | .clrst => ⟨some 0, .write 16 0x02 0xFF00⟩
  | .waitIdle => ⟨none, .read 16 0x02⟩
  | .rd off => ⟨some 0, .read 16 off⟩
  | .op i => ⟨some 0, .write 16 0x00 (encode i)⟩

/-- A program of the notation. -/
def assemble (ls : List AsmLine) : List HostStep := ls.map AsmLine.step

/-- ARG writes for operands from ARG `i` on (R118). -/
def argLines (ops : List Word) : List AsmLine := ops.mapIdx fun i v => .arg (Fin.ofNat _ i) v

/-- The operand form `MNEMONIC a0, a1, ...`: the ARG writes, the CMD write, WAITIDLE (R118). -/
def operandForm (i : Instr) (ops : List Word) : List AsmLine := argLines ops ++ [.op i, .waitIdle]

/-- `WRITE_ARGS cmd, a0, ..., a(n-1)`: the count is the number of arguments (R118). -/
def writeArgsForm (cmd : Word) (args : List Word) : List AsmLine :=
  operandForm (.writeArgs (BitVec.ofNat 4 args.length)) (cmd :: args)

/-- `SET_TARGET_ADDR a32`: low half first (R118). -/
def setTargetAddrForm (a : BitVec 32) : List AsmLine := operandForm .setTargetAddr [lowHalf a, highHalf a]

/-- `READ_FB_BYTE i32`: low half first (R118). -/
def readFbByteForm (i : BitVec 32) : List AsmLine := operandForm .readFbByte [lowHalf i, highHalf i]

/-- `WRITE_REGION x, y, w, h, s32`: the source address low half first (R118). -/
def writeRegionForm (x y w h : Word) (src : BitVec 32) : List AsmLine :=
  operandForm .writeRegion [x, y, w, h, lowHalf src, highHalf src]

end Sys2Proof.Machine
end

