-- ==== Sys2Proof/Safety.lean ====
section
/-! DEFINITION. The terms claims use: bus transactions and frames of TRACE, the frame discipline, an idle and undisturbed
block, the premises of 60_exceptions.md R309, and the invariant of the machine. -/

namespace Sys2Proof.Machine

/-! ## TRACE -/

/-- A bus transaction is any event other than `DLY`, `W`, `W!` and `P!` (00_scope.md R14). -/
def Event.isBus : Event → Bool
  | .sel _ | .tx _ | .rx _ | .rst _ => true
  | .ready | .readyTimeout | .delay _ | .pollTimeout => false

/-- The bus transactions of a trace, in order. -/
def busEvents (t : List Event) : List Event := t.filter Event.isBus

/-- An event that marks a timeout: `W!` or `P!`. -/
def Event.isTimeout : Event → Bool
  | .readyTimeout | .pollTimeout => true
  | .sel _ | .tx _ | .rx _ | .rst _ | .ready | .delay _ => false

/-- An event with `W!` read as `W`: what a trace is once it does not matter which waits timed out. -/
def Event.untimed : Event → Event
  | .readyTimeout => .ready
  | e => e

/-- Select frames, TX units and RX units of a trace (30_encoding.md R132). -/
def frameCount (t : List Event) : Nat × Nat × Nat :=
  (t.countP (fun e => decide (e = .sel .active)),
   t.countP (fun e => match e with | .tx _ => true | _ => false),
   t.countP (fun e => match e with | .rx _ => true | _ => false))

/-- The event of a micro-step, if it is a wire primitive or the end of a poll. -/
def Micro.event : Micro → Option Event
  | .sel l => some (.sel l)
  | .tx w => some (.tx w)
  | .rx w => some (.rx w)
  | .waitReady timedOut => some (if timedOut then .readyTimeout else .ready)
  | .rst l => some (.rst l)
  | .delay ms => some (.delay ms)
  | .pollTimeout => some .pollTimeout
  | .setRdata _ | .setRdbuf _ _ | .setPanelW _ | .setPanelH _ | .setImgbufL _ | .setImgbufH _ | .setFwver _ _
  | .setLutver _ _ | .setGeomKnown | .writeFb _ _ | .setLc _ | .setSticky _ => none

/-- The events of micro-steps, in order. -/
def eventsOf (ms : List Micro) : List Event := ms.filterMap Micro.event

/-- A marker word (30_encoding.md R120). -/
def isMarker (w : Word) : Bool := w == Config.K_PRE_CMD || w == Config.K_PRE_WR || w == Config.K_PRE_RD

/-- Where a trace stands: outside a frame, in a frame before its marker, in a frame after it. -/
inductive FrameState where
  | outside | opened | inside
deriving DecidableEq, Repr

/-- The frame discipline, event by event (41_handshake.md R160, 20_memory.md R98): `none` if it is broken. -/
def frameStep : FrameState → Event → Option FrameState
  | f, .ready => some f
  | f, .readyTimeout => some f
  | .outside, .sel .active => some .opened
  | .opened, .tx w => if isMarker w then some .inside else none
  | .inside, .tx _ => some .inside
  | .inside, .rx _ => some .inside
  | .inside, .sel .inactive => some .outside
  | .outside, .rst _ => some .outside
  | .outside, .delay _ => some .outside
  | .outside, .pollTimeout => some .outside
  | _, _ => none

/-- Where a whole trace stands, if it keeps the frame discipline. -/
def frameState (t : List Event) : Option FrameState := t.foldlM frameStep .outside

/-! ## Traces of the rules

The abbreviations of 00_scope.md R15 with the literals the spec writes, and the shapes of a poll, an area load and an
update. They are written out as events, not through the frame functions of the machine. -/

/-- `CMD(c)`. -/
def traceCMD (c : Word) : List Event :=
  [.sel .active, .ready, .tx 0x6000, .ready, .tx c, .sel .inactive]

/-- `WR(d)`. -/
def traceWR (d : Word) : List Event :=
  [.sel .active, .ready, .tx 0x0000, .ready, .tx d, .sel .inactive]

/-- The bulk-read frame of the words `ds` (30_encoding.md R125). -/
def traceRDS (ds : List Word) : List Event :=
  [.sel .active, .ready, .tx 0x1000, .ready, .tx 0x0000, .ready] ++ ds.map .rx ++ [.sel .inactive]

/-- `RD(d)`. -/
def traceRD (d : Word) : List Event := traceRDS [d]

/-- `REG(a,v)`. -/
def traceREG (a v : Word) : List Event := traceCMD 0x0011 ++ traceWR a ++ traceWR v

/-- `POLL(v)`. -/
def tracePOLL (v : Word) : List Event := traceCMD 0x0010 ++ traceWR 0x1224 ++ traceRD v

/-- The stream frame of the words `ws` (30_encoding.md R126). -/
def traceStream (ws : List Word) : List Event :=
  [.sel .active, .ready, .tx 0x0000, .ready] ++ ws.map .tx ++ [.sel .inactive]

/-- A command with its argument frames (42_registerio.md R184). -/
def traceARGS (c : Word) (args : List Word) : List Event := traceCMD c ++ args.flatMap traceWR

/-- The trace of a busy-register poll: reads that are not 0, then a read of 0, or a last read that is not 0 and `P!`
(41_handshake.md R159). -/
def isPollTrace (t : List Event) : Prop :=
  ∃ (vs : List Word) (v : Word), (∀ u ∈ vs, u ≠ 0) ∧
    ((v = 0 ∧ t = (vs ++ [v]).flatMap tracePOLL) ∨
     (v ≠ 0 ∧ t = (vs ++ [v]).flatMap tracePOLL ++ [.pollTimeout]))

/-- The trace of `area_load` with the image buffer address in two halves (45_writer.md R263). -/
def isAreaLoadTrace (imgHigh imgLow x y w h : Word) (pixels : List Word) (t : List Event) : Prop :=
  ∃ p, isPollTrace p ∧
    t = p ++ traceREG 0x020A imgHigh ++ traceREG 0x0208 imgLow
      ++ traceARGS 0x0021 [0x0120, x, y, w, h] ++ traceStream pixels ++ traceCMD 0x0022

/-- The trace of an update command after its poll, for extents already clipped (45_writer.md R264). -/
def isUpdateTrace (imgHigh imgLow x y w h mode : Word) (t : List Event) : Prop :=
  ∃ p, isPollTrace p ∧ t = p ++ traceARGS 0x0037 [x, y, w, h, mode, imgLow, imgHigh]

/-- The next `n` words the controller drives (41_handshake.md R153). -/
def Env.coming : Nat → Env → List Word
  | 0, _ => []
  | n + 1, e => e.drawRx.1 :: Env.coming n e.drawRx.2

/-- SEL_OUT after some events: the level of the last `Sel` (10_state.md R49). -/
def selAfter (l : SelLevel) (evs : List Event) : SelLevel :=
  evs.foldl (fun l e => match e with | .sel l' => l' | _ => l) l

/-- RST_OUT after some events: the level of the last `Rst` (10_state.md R49). -/
def rstAfter (l : RstLevel) (evs : List Event) : RstLevel :=
  evs.foldl (fun l e => match e with | .rst l' => l' | _ => l) l

/-- All that wire events change: TRACE, the two outputs, and WARN_TIMEOUT if one of them is a timeout
(00_scope.md R14, 10_state.md R36, R49). -/
def State.afterEvents (s : State) (evs : List Event) : State :=
  { s with
    traceRev := evs.reverse ++ s.traceRev
    selOut := selAfter s.selOut evs
    rstOut := rstAfter s.rstOut evs
    sticky := if evs.any Event.isTimeout then s.sticky ||| stickyMask .warnTimeout else s.sticky }

/-! ## The gate table -/

/-- The lifecycle states in which raw wire operations are accepted. -/
def trafficStates : List Lifecycle := [.reset, .running, .configured, .ready]

/-- The table of 60_exceptions.md R303: the gate set of each operation. WRITE_DISPLAY has no gate. -/
def gateSet : Instr → List Lifecycle
  | .nop | .readFbByte | .writeDisplay => [.unreset, .reset, .running, .configured, .ready, .failed]
  | .setPixel => [.unreset, .reset, .running, .configured, .ready]
  | .waitBusyLine | .pollBusyReg | .writeCommand | .writeWord | .writeRegister | .setTargetAddr
  | .writeArgs _ | .readWord | .readWords | .readRegister => trafficStates
  | .resetPanel | .setup => [.unreset]
  | .systemRun => [.reset]
  | .configure => [.running]
  | .getDeviceInfo => [.configured]
  | .writeRegion | .updateRegion | .clear => [.ready]

/-! ## Idle and undisturbed -/

/-- The engine is idle and no host step is coming, so an operation issued now runs to its end in one step. -/
def State.quiet (s : State) : Prop := s.seq = .idle ∧ s.inbox = []

/-- The next host step is due: the engine is idle, or has made the micro-steps it waits for. -/
def State.comesNext (s : State) (h : HostAct) (rest : List HostStep) : Prop :=
  ∃ after, s.inbox = ⟨after, h⟩ :: rest ∧ (s.seq = .idle ∨ after = some 0)

/-- No wait and no poll has timed out since the flag was last cleared: the premise of claims about what the controller
received (60_exceptions.md R309). -/
def State.noTimeout (s : State) : Prop := s.flag .warnTimeout = false

/-- No host misuse is recorded: the premise of claims about an operation's effect (60_exceptions.md R309). -/
def State.noMisuse (s : State) : Prop :=
  s.flag .errIllegal = false ∧ s.flag .errOverrun = false ∧ s.flag .errState = false ∧ s.flag .errBounds = false
    ∧ s.flag .errAlign = false

/-! ## The invariant -/

/-- What holds between any two micro-steps: the RAM is in canonical form and inside its address space, a known geometry
is one GET_DEVICE_INFO accepts (43_init.md R214), and TRACE keeps the frame discipline and agrees with SEL_OUT. -/
def State.sound (s : State) : Bool :=
  s.fb.wf
    && (!s.geomKnown || decide (infoFailure s.panelW s.panelH = none))
    && (match frameState s.trace with
        | some f => decide (f = .outside) == decide (s.selOut = .inactive)
        | none => false)

/-- What holds of an idle engine: also SEL_OUT is inactive (41_handshake.md R160) and the geometry is known exactly
in READY (10_state.md R35). -/
def State.settled (s : State) : Bool :=
  s.sound && decide (s.selOut = .inactive) && (s.geomKnown == decide (s.lc = .ready))

/-- Micro-steps that keep `sound` all along and end `settled`. -/
def soundRun : List Micro → State → Bool
  | [], s => s.settled
  | m :: ms, s => s.sound && soundRun ms (s.perform m)

/-- What every piece of the block's state holds while RESET_IN is asserted (70_reset_and_hazards.md R340). -/
def State.heldInReset (s : State) : Bool :=
  decide (s = { State.reset with
    resetIn := s.resetIn, fbEpoch := s.fbEpoch, env := s.env, inbox := s.inbox, busReads := s.busReads,
    readDraws := s.readDraws })

/-- The invariant: an idle engine is settled, a running one has micro-steps left that lead soundly to a settled state, and
an asserted RESET_IN holds the block in its reset state. -/
def State.inv (s : State) : Bool :=
  (match s.seq with
   | .idle => s.settled
   | .running _ _ rest => !rest.isEmpty && soundRun rest s)
    && (!s.resetIn || s.heldInReset)

end Sys2Proof.Machine
end

