-- ==== Sys2Proof/Certificates/Slice0/Obligations.lean ====
section
/-! DEFINITION. The statements for the provers. Each docstring names the rule of spec/ it formalises, or says that it is the
model's own. -/

open Sys2Proof Sys2Proof.Machine

/-! ## Encoding -/

/-- 30_encoding.md R110, R112: no bit of an encoding is dropped. -/
def Obligations.DecodeOfEncodeIsTheInstruction : Prop :=
  ∀ i : Instr, i.wellFormed = true →
    decode (encode i) = .ok i ∧ decodeTableWord 16 (encode i).toNat = some i

/-- 30_encoding.md R110, R112: a legal command word has one meaning, and that meaning has no other word. -/
def Obligations.EncodeOfDecodeIsTheWord : Prop :=
  ∀ (c : Word) (i : Instr), decode c = .ok i → i.wellFormed = true ∧ encode i = c

/-- 30_encoding.md R114, R115: the illegal words are exactly those with RSV ≠ 0, a reserved OPC, or a CNT not allowed. -/
def Obligations.IllegalWordsAreTheReservedOnes : Prop :=
  ∀ c : Word,
    let opc := c.toNat % 256
    let cnt := c.toNat / 256 % 16
    ((∃ e, decode c = .error e) ↔
      (c.toNat / 4096 ≠ 0 ∨ (0x03 ≤ opc ∧ opc ≤ 0x0F) ∨ (0x18 ≤ opc ∧ opc ≤ 0x1F) ∨ (0x25 ≤ opc ∧ opc ≤ 0x2F)
        ∨ (0x32 ≤ opc ∧ opc ≤ 0x3F) ∨ 0x44 ≤ opc ∨ (opc ≠ 0x14 ∧ cnt ≠ 0) ∨ (opc = 0x14 ∧ 8 < cnt)))

/-- 30_encoding.md R112 and the vectors of 95_test_vectors.md section 3. -/
def Obligations.SampleCommandWordsDecode : Prop :=
  decode 0x0000 = .ok .nop ∧ decode 0x0002 = .ok .pollBusyReg ∧ decode 0x0013 = .ok .setTargetAddr
    ∧ decode 0x0514 = .ok (.writeArgs 5) ∧ decode 0x0024 = .ok .setup ∧ decode 0x0031 = .ok .readFbByte
    ∧ decode 0x0043 = .ok .clear ∧ decode 0x0003 = .error .reservedOpcode ∧ decode 0x1000 = .error .reservedBits
    ∧ decode 0x0110 = .error .countNotZero ∧ decode 0x0914 = .error .countTooLarge

/-! ## Commands -/

/-- 10_state.md R32: a legal word written to CMD of an idle block out of reset is run as its instruction, with CMD holding
the word; `withFetchWord` places such a write. -/
def Obligations.StepRunsTheCommandWritten : Prop :=
  (∀ (s : State) (rest : List HostStep) (w : Word) (i : Instr),
    s.seq = .idle → s.resetIn = false → s.comesNext (.write 16 0x00 w) rest → decode w = .ok i →
      step s = exec i ((s.withInbox rest).withCmd w)) ∧
  (∀ (s : State) (w : Word) (i : Instr), decode w = .ok i →
      step (s.withFetchWord 16 w.toNat) = exec i { s with resetIn := false, seq := .idle, cmd := w })

/-- 30_encoding.md R114 (with 10_state.md R32 for CMD itself, log 23): an illegal word sets ERR_ILLEGAL, with no event and
no operation. -/
def Obligations.IllegalCommandSetsErrIllegal : Prop :=
  ∀ (s : State) (rest : List HostStep) (w : Word) (e : DecodeError),
    s.seq = .idle → s.resetIn = false → s.comesNext (.write 16 0x00 w) rest → decode w = .error e →
      step s = .next (((s.withInbox rest).withCmd w).setFlag .errIllegal)

/-- 60_exceptions.md R302: the running operation, its latches and TRACE are unaffected. That CMD takes the dropped word is
10_state.md R32 as the model reads it (log 23). -/
def Obligations.CommandWhileBusyIsDropped : Prop :=
  ∀ (s : State) (rest : List HostStep) (w : Word),
    s.busy = true → s.resetIn = false → s.comesNext (.write 16 0x00 w) rest →
      step s = .next (((s.withInbox rest).withCmd w).setFlag .errOverrun)

/-- 60_exceptions.md R303: outside its gate set an operation sets ERR_STATE and does nothing else; inside it ERR_STATE is
not raised; WRITE_DISPLAY, which has no gate, is silent outside READY. -/
def Obligations.LifecycleGate : Prop :=
  ∀ (i : Instr) (s : State), i.wellFormed = true → s.seq = .idle →
    (s.lc ∉ gateSet i → exec i s = .next (s.setFlag .errState)) ∧
    (s.lc ∈ gateSet i → ∀ t, exec i s = .next t → t.flag .errState = s.flag .errState) ∧
    (i = .writeDisplay → s.lc ≠ .ready → s.inbox = [] → exec i s = .next (s.latched s.env))

/-- 60_exceptions.md R304, R306: a rejection changes its own STATUS bit and nothing else, so no event is emitted and no
second error is recorded. -/
def Obligations.RejectionsArePrecise : Prop :=
  ∀ (i : Instr) (s t : State) (c : Cause), exec i s = .next t →
    s.flag c = false → t.flag c = true → c ≠ .warnTimeout →
    (i = .getDeviceInfo ∨ i = .setup → c ≠ .errAlloc ∧ c ≠ .errDevinfo) → t = s.setFlag c

/-- 10_state.md R47: an accepted operation latches the operands, CTRL.REVERSED and CMD; a rejected one leaves the latches
(log 9). -/
def Obligations.AcceptedOperationsLatch : Prop :=
  ∀ (i : Instr) (s t : State), s.seq = .idle → exec i s = .next t →
    t.lat = ⟨s.args, s.reversed, s.cmd⟩ ∨ (t.lat = s.lat ∧ ∃ c, t = s.setFlag c)

/-! ## The host register interface -/

/-- 10_state.md R36: a STATUS write clears the bits of 15:8 written as 1 and changes nothing else. -/
def Obligations.StatusWriteClearsOnes : Prop :=
  ∀ (s : State) (rest : List HostStep) (w : Word), s.resetIn = false → s.comesNext (.write 16 0x02 w) rest →
    ∃ t, step s = .next t ∧
      (∀ k, 8 ≤ k → k ≤ 15 → t.statusWord.getLsbD k = (s.statusWord.getLsbD k && !w.getLsbD k)) ∧
      t = { s.withInbox rest with sticky := t.sticky }

/-- 10_state.md R37: no operation clears a sticky bit (STATUS bits 15:8), READY (bit 4) or GEOM_KNOWN (bit 5); only a write
of STATUS with the bit set, or an engine reset, clears a sticky bit. -/
def Obligations.NothingElseClearsStatusBits : Prop :=
  (∀ (i : Instr) (s t : State), exec i s = .next t →
    (∀ k, k = 4 ∨ k = 5 ∨ (8 ≤ k ∧ k ≤ 15) → s.statusWord.getLsbD k = true → t.statusWord.getLsbD k = true) ∧
    (s.lc = .ready → t.lc = .ready) ∧ (s.geomKnown = true → t.geomKnown = true)) ∧
  (∀ (s t : State) (k : Nat), 8 ≤ k → k ≤ 15 → step s = .next t →
    s.statusWord.getLsbD k = true → t.statusWord.getLsbD k = false →
      ∃ h rest, s.inbox = h :: rest ∧
        (h.act = .resetIn true ∨ ∃ w, h.act = .write 16 0x02 w ∧ w.getLsbD k = true))

/-- 10_state.md R33 to R36, 60_exceptions.md R301: the layout of STATUS, and the bit number each cause sets, alone. -/
def Obligations.StatusLayout : Prop :=
  ∀ s : State,
    s.statusWord.getLsbD 0 = decide (s.seq ≠ .idle) ∧
    s.statusWord.toNat / 2 % 8 = (match s.lc with
      | .unreset => 0 | .reset => 1 | .running => 2 | .configured => 3 | .ready => 4 | .failed => 5) ∧
    s.statusWord.getLsbD 4 = decide (s.lc = .ready) ∧ s.statusWord.getLsbD 5 = s.geomKnown ∧
    s.statusWord.getLsbD 6 = false ∧ s.statusWord.getLsbD 7 = false ∧
    ∀ c : Cause,
      let k := (match c with
        | .warnTimeout => 8 | .errIllegal => 9 | .errOverrun => 10 | .errState => 11 | .errBounds => 12 | .errAlign => 13
        | .errAlloc => 14 | .errDevinfo => 15)
      s.statusWord.getLsbD k = s.flag c ∧
        ∀ j, (s.setFlag c).statusWord.getLsbD j = (decide (j = k) || s.statusWord.getLsbD j)

/-- 10_state.md R31: ARG registers are written whole, at any time, and each write changes one of them alone. -/
def Obligations.ArgWriteStoresTheWord : Prop :=
  ∀ (s : State) (rest : List HostStep) (i : Fin 9) (w : Word), s.resetIn = false →
    s.comesNext (.write 16 (BitVec.ofNat 8 (0x08 + 2 * i.val)) w) rest →
      ∃ t, step s = .next t ∧ t = { s.withInbox rest with args := t.args } ∧
        ∀ j : Fin 9, t.args[j] = if j = i then w else s.args[j]

/-- 10_state.md R41: CTRL bit 0 is REVERSED; bits 15:1 are ignored and read 0. -/
def Obligations.CtrlWriteSetsReversed : Prop :=
  ∀ (s : State) (rest : List HostStep) (w : Word), s.resetIn = false → s.comesNext (.write 16 0x04 w) rest →
    step s = .next { s.withInbox rest with reversed := w.getLsbD 0 } ∧
    ({ s with reversed := w.getLsbD 0 } : State).ctrlWord.toNat = w.toNat % 2

/-- 10_state.md R53: a reserved offset reads 0x0000 and ignores writes. -/
def Obligations.ReservedOffsetsReadZeroAndIgnoreWrites : Prop :=
  ∀ (s : State) (rest : List HostStep) (off : BitVec 8), off.toNat % 2 = 0 →
    (0x1A ≤ off.toNat ∧ off.toNat ≤ 0x1F) ∨ (0x48 ≤ off.toNat ∧ off.toNat ≤ 0x7F) ∨ 0xA8 ≤ off.toNat →
      (s.comesNext (.read 16 off) rest →
        step s = .next { s.withInbox rest with busReads := (off, 0) :: s.busReads }) ∧
      (∀ w : Word, s.comesNext (.write 16 off w) rest → step s = .next (s.withInbox rest))

/-- The model's choice (log 13): a write of a register the map of 10_state.md R30 gives as read-only to the host changes
nothing. -/
def Obligations.WritesOfReadOnlyRegistersAreIgnored : Prop :=
  ∀ (s : State) (rest : List HostStep) (off : BitVec 8) (w : Word), off.toNat % 2 = 0 →
    off.toNat = 0x06 ∨ (0x20 ≤ off.toNat ∧ off.toNat < 0x48) ∨ (0x80 ≤ off.toNat ∧ off.toNat < 0xA8) →
      s.comesNext (.write 16 off w) rest → step s = .next (s.withInbox rest)

/-- 10_state.md R30, R38, R54: what a host read of each register returns, while idle or of a register that is exact at all
times; nothing in the block changes. -/
def Obligations.HostReadsReturnTheRegisters : Prop :=
  ∀ (s : State) (rest : List HostStep) (off : BitVec 8), off.toNat % 2 = 0 → s.comesNext (.read 16 off) rest →
    let returns := fun v : Word => step s = .next { s.withInbox rest with busReads := (off, v) :: s.busReads }
    (off.toNat = 0x00 → returns s.cmd) ∧ (off.toNat = 0x02 → returns s.statusWord) ∧
    (off.toNat = 0x04 → returns s.ctrlWord) ∧
    (∀ i : Fin 9, off.toNat = 0x08 + 2 * i.val → returns s.args[i]) ∧
    (s.seq = .idle →
      (off.toNat = 0x06 → returns s.rdata) ∧ (off.toNat = 0x20 → returns s.panelW) ∧
      (off.toNat = 0x22 → returns s.panelH) ∧ (off.toNat = 0x24 → returns s.imgbufL) ∧
      (off.toNat = 0x26 → returns s.imgbufH) ∧ (∀ i : Fin 8, off.toNat = 0x28 + 2 * i.val → returns s.fwver[i]) ∧
      (∀ i : Fin 8, off.toNat = 0x38 + 2 * i.val → returns s.lutver[i]) ∧
      (∀ i : Fin 20, off.toNat = 0x80 + 2 * i.val → returns s.rdbuf[i]))

/-- 10_state.md R54: while BUSY, a read of RDATA, an RDBUF entry or a device-info register returns a free value; a read of
CMD, STATUS, CTRL or ARG is exact. -/
def Obligations.ResultReadsWhileBusyAreDraws : Prop :=
  ∀ (s : State) (rest : List HostStep) (off : BitVec 8), s.busy = true → off.toNat % 2 = 0 →
    s.comesNext (.read 16 off) rest →
      let returns := fun v : Word => step s = .next { s.withInbox rest with busReads := (off, v) :: s.busReads }
      (off.toNat = 0x06 ∨ (0x20 ≤ off.toNat ∧ off.toNat < 0x48) ∨ (0x80 ≤ off.toNat ∧ off.toNat < 0xA8) →
        step s = .next { s.withInbox rest with
          busReads := (off, Config.busyRead s.readDraws) :: s.busReads, readDraws := s.readDraws + 1 }) ∧
      (off.toNat = 0x00 → returns s.cmd) ∧ (off.toNat = 0x02 → returns s.statusWord) ∧
      (off.toNat = 0x04 → returns s.ctrlWord) ∧ (∀ i : Fin 9, off.toNat = 0x08 + 2 * i.val → returns s.args[i])

/-- 20_memory.md R84. -/
def Obligations.MalformedHostAccessIsRefused : Prop :=
  ∀ (s : State) (rest : List HostStep) (width : Nat) (off : BitVec 8) (w : Word),
    s.comesNext (.write width off w) rest ∨ s.comesNext (.read width off) rest →
      (width ≠ 16 → step s = .refused .hostAccessWidth) ∧
      (width = 16 → off.toNat % 2 = 1 → step s = .refused .hostAccessOddOffset)

/-! ## Reset -/

/-- 10_state.md R60: the values after engine reset, in the state the machine starts in and in the state an asserted RESET_IN
leaves; the framebuffer's bytes are free values. -/
def Obligations.ResetStateHoldsTheTable : Prop :=
  let table := fun s : State =>
    s.cmd = 0 ∧ s.statusWord = 0 ∧ s.lc = .unreset ∧ s.geomKnown = false ∧ s.ctrlWord = 0 ∧ s.rdata = 0 ∧
      (∀ i : Fin 9, s.args[i] = 0) ∧ s.panelW = 0 ∧ s.panelH = 0 ∧ s.imgbufL = 0 ∧ s.imgbufH = 0 ∧
      (∀ i : Fin 8, s.fwver[i] = 0 ∧ s.lutver[i] = 0) ∧ (∀ i : Fin 20, s.rdbuf[i] = 0) ∧ s.seq = .idle ∧
      s.selOut = .inactive ∧ s.rstOut = .high ∧ (∀ a, s.fbByte a = Config.powerOnByte s.fbEpoch a) ∧ s.trace = []
  table State.reset ∧
    ∀ (s : State) (rest : List HostStep), s.comesNext (.resetIn true) rest →
      ∃ t, step s = .next t ∧ table t ∧ t.fbEpoch = s.fbEpoch + 1

/-- 70_reset_and_hazards.md R340: asserting RESET_IN at any point abandons a running operation and gives every piece of the
block's state its reset value; release changes nothing else. The model's own choices in it: the latches, which R60 leaves
unspecified, are 0 (log 8); a write is lost until RESET_IN is released (log 16); the fields outside the block stay (log 17);
and the RAM's contents are new free values (log 6). -/
def Obligations.EngineResetRestoresResetState : Prop :=
  (∀ (s : State) (rest : List HostStep), s.comesNext (.resetIn true) rest →
    step s = .next { State.reset with
      resetIn := true, fbEpoch := s.fbEpoch + 1, env := s.env, inbox := rest, busReads := s.busReads,
      readDraws := s.readDraws }) ∧
  (∀ (s : State) (rest : List HostStep) (off : BitVec 8) (w : Word), s.resetIn = true → off.toNat % 2 = 0 →
    s.comesNext (.write 16 off w) rest → step s = .next (s.withInbox rest)) ∧
  (∀ (s : State) (rest : List HostStep), s.comesNext (.resetIn false) rest →
    step s = .next { s.withInbox rest with resetIn := false })

/-! ## The invariant -/

/-- The invariant of Safety.lean holds after engine reset. -/
def Obligations.InvariantHoldsAtReset : Prop := State.reset.inv = true

/-- Every step keeps it: the RAM stays in canonical form and inside its address space (20_memory.md R80), a known geometry
stays one GET_DEVICE_INFO accepts (43_init.md R214), TRACE keeps the frame discipline and agrees with SEL_OUT
(41_handshake.md R160), an idle engine has SEL_OUT inactive and knows its geometry exactly in READY, and an asserted
RESET_IN holds the block in its reset state (70_reset_and_hazards.md R340). -/
def Obligations.EveryStepKeepsTheInvariant : Prop :=
  ∀ s t : State, s.inv = true → step s = .next t → t.inv = true

/-! ## The framebuffer -/

/-- 00_scope.md R11, 20_memory.md R80: a byte written is read back, a zero-filled byte reads 0x00, every other address reads
as before, and both keep the canonical form inside the RAM. -/
def Obligations.FramebufferReadsWhatWasWritten : Prop :=
  ∀ (m : Memory) (a n : Nat) (v : Byte),
    (∀ b, (m.write a v).read b = if b = a then some v else m.read b) ∧
    (∀ b, (m.zeroFill n).read b = if b < n then some 0 else m.read b) ∧
    (m.wf = true → a < 259200 → (m.write a v).wf = true) ∧
    (m.wf = true → n ≤ 259200 → (m.zeroFill n).wf = true)

/-- 44_codec.md R244: SET_PIXEL. In bounds one nibble of one byte changes, nothing is sent and no flag is set; out of
bounds nothing changes but the latches. A pixel in bounds of a geometry larger than the RAM, which no run reaches, faults:
that is the model's choice (log 18). -/
def Obligations.SetPixelPacksOneNibble : Prop :=
  decode 0x0030 = .ok .setPixel ∧
  (∀ s : State, s.seq = .idle → s.lc = .failed → exec .setPixel s = .next (s.setFlag .errState)) ∧
  (∀ s : State, s.quiet → s.lc ≠ .failed →
    let x := s.args[0].toNat
    let y := s.args[1].toNat
    let w := if s.geomKnown then s.panelW.toNat else 960
    let h := if s.geomKnown then s.panelH.toNat else 540
    let a := y * (w / 2) + x / 2
    let c := s.args[2].toNat % 16
    let old := (s.fbByte a).toNat
    (x < w ∧ y < h → a < 259200 →
      ∃ t, exec .setPixel s = .next t ∧ t = ({ s with fb := t.fb } : State).latched s.env ∧
        (t.fbByte a).toNat = (if x % 2 = 1 then old / 16 * 16 + c else c * 16 + old % 16) ∧
        ∀ b, b ≠ a → t.fb.read b = s.fb.read b) ∧
    (x < w ∧ y < h → 259200 ≤ a → exec .setPixel s = .fault .framebufferAddress) ∧
    (¬ (x < w ∧ y < h) → exec .setPixel s = .next (s.latched s.env)))

/-- 44_codec.md R243: in-bounds pixels reach exactly the bytes below FB_LEN, and two share a byte only in one row and one
pair. -/
def Obligations.PixelAddressesFillTheFramebuffer : Prop :=
  ∀ w h : Word, w.toNat % 4 = 0 →
    (∀ a, a < w.toNat / 2 * h.toNat ↔
      ∃ x y : Word, x.toNat < w.toNat ∧ y.toNat < h.toNat ∧ pixelIndex x y w = a) ∧
    (∀ x y x' y' : Word, x.toNat < w.toNat → x'.toNat < w.toNat →
      (pixelIndex x y w = pixelIndex x' y' w ↔ y = y' ∧ x.toNat / 2 = x'.toNat / 2))

/-- 44_codec.md R245: READ_FB_BYTE in every lifecycle state; a byte nothing has written is a free value (log 6). -/
def Obligations.ReadFbByteReadsOneByte : Prop :=
  decode 0x0031 = .ok .readFbByte ∧
  ∀ s : State,
    let i := s.args[1].toNat * 65536 + s.args[0].toNat
    (s.quiet → i < 259200 →
      ∃ v : Word, exec .readFbByte s = .next (({ s with rdata := v } : State).latched s.env) ∧
        v.toNat = (match s.fb.read i with
          | some b => b.toNat
          | none => (Config.powerOnByte s.fbEpoch i).toNat)) ∧
    (s.seq = .idle → 259200 ≤ i → exec .readFbByte s = .next (s.setFlag .errBounds))

/-- 95_test_vectors.md E1 (44_codec.md R240, R244, R245): a pixel written is read back in its nibble, and the other nibble of
the byte is as it was. -/
def Obligations.PixelWrittenIsReadBack : Prop :=
  ∀ s : State, s.quiet → s.lc ≠ .failed →
    let x := s.args[0].toNat
    let y := s.args[1].toNat
    let i := y * (s.width.toNat / 2) + x / 2
    x < s.width.toNat → y < s.height.toNat → i < 259200 →
      ∃ t u, exec .setPixel s = .next t ∧
        exec .readFbByte { t with
          args := (t.args.set 0 (BitVec.ofNat 16 i)).set 1 (BitVec.ofNat 16 (i / 65536)) } = .next u ∧
        u.trace = s.trace ∧ u.sticky = s.sticky ∧ u.rdata.toNat < 256 ∧
        (if x % 2 = 1
          then u.rdata.toNat % 16 = s.args[2].toNat % 16 ∧ u.rdata.toNat / 16 = (s.fbByte i).toNat / 16
          else u.rdata.toNat / 16 = s.args[2].toNat % 16 ∧ u.rdata.toNat % 16 = (s.fbByte i).toNat % 16)

/-! ## Handshake operations -/

/-- 41_handshake.md R165: NOP in every lifecycle state has no micro-step, no event and no flag; while BUSY it is an overrun
like any other command (60_exceptions.md R302). That CMD takes the dropped 0x0000 is 10_state.md R32 as the model reads it
(log 23). -/
def Obligations.NopDoesNothing : Prop :=
  decode 0x0000 = .ok .nop ∧ (∀ s : State, s.quiet → exec .nop s = .next (s.latched s.env)) ∧
  (∀ (s : State) (rest : List HostStep), s.busy = true → s.resetIn = false →
    s.comesNext (.write 16 0x00 0x0000) rest →
      step s = .next (((s.withInbox rest).withCmd 0x0000).setFlag .errOverrun))

/-- 41_handshake.md R166 with R154, R158: the wait ends with `W` if one of its samples reads ready, and otherwise with `W!` and
WARN_TIMEOUT; nothing else changes. A free wait ends one way or the other. -/
def Obligations.WaitBusyLineSamplesUntilReady : Prop :=
  decode 0x0001 = .ok .waitBusyLine ∧
  (∀ s : State, s.seq = .idle → s.lc = .unreset ∨ s.lc = .failed →
    exec .waitBusyLine s = .next (s.setFlag .errState)) ∧
  (∀ s : State, s.quiet → s.lc ≠ .unreset → s.lc ≠ .failed →
    (∀ first more rest, s.env.waits = (first, more) :: rest →
      (true ∈ first :: more →
        exec .waitBusyLine s = .next ((s.emit .ready).latched { s.env with waits := rest })) ∧
      (true ∉ first :: more →
        exec .waitBusyLine s
          = .next (((s.setFlag .warnTimeout).emit .readyTimeout).latched { s.env with waits := rest }))) ∧
    (∃ env, exec .waitBusyLine s = .next ((s.emit .ready).latched env) ∨
      exec .waitBusyLine s = .next (((s.setFlag .warnTimeout).emit .readyTimeout).latched env)))

/-- 41_handshake.md R167 with R159: at least one read, an end at the first 0, `P!` only after a read that was not 0, and
RDATA untouched; a poll with room for `n` reads after its first (log 5) whose words are all 1 sends `n + 1` reads and then
times out, whatever the window operand. -/
def Obligations.PollBusyRegPollsUntilZero : Prop :=
  decode 0x0002 = .ok .pollBusyReg ∧
  (∀ s : State, s.seq = .idle → s.lc = .unreset ∨ s.lc = .failed →
    exec .pollBusyReg s = .next (s.setFlag .errState)) ∧
  (∀ s : State, s.quiet → s.lc ≠ .unreset → s.lc ≠ .failed →
    ∃ (evs : List Event) (env : Env), isPollTrace (evs.map Event.untimed) ∧
      ((Env.coming 1 s.env = [0]) → evs.map Event.untimed = tracePOLL 0) ∧
      exec .pollBusyReg s = .next ((s.afterEvents evs).latched env)) ∧
  (∀ (s : State) (n : Nat) (rest : List Nat), s.quiet → s.lc ≠ .unreset → s.lc ≠ .failed →
    s.env.polls = n :: rest → Env.coming (n + 1) s.env = List.replicate (n + 1) 1 →
      ∃ (evs : List Event) (env : Env),
        evs.map Event.untimed = (List.replicate (n + 1) (1 : Word)).flatMap tracePOLL ++ [.pollTimeout] ∧
        exec .pollBusyReg s = .next ((s.afterEvents evs).latched env) ∧
        (s.afterEvents evs).flag .warnTimeout = true)

/-! ## RegisterIO operations -/

/-- 42_registerio.md R180 and R181: one frame, the host's word verbatim. -/
def Obligations.SingleWordWritesSendOneFrame : Prop :=
  decode 0x0010 = .ok .writeCommand ∧ decode 0x0011 = .ok .writeWord ∧
  (∀ s : State, s.seq = .idle → s.lc = .unreset ∨ s.lc = .failed →
    exec .writeCommand s = .next (s.setFlag .errState) ∧ exec .writeWord s = .next (s.setFlag .errState)) ∧
  (∀ s : State, s.quiet → s.lc ≠ .unreset → s.lc ≠ .failed →
    (∃ (evs : List Event) (env : Env), evs.map Event.untimed = traceCMD s.args[0] ∧
      exec .writeCommand s = .next ((s.afterEvents evs).latched env)) ∧
    (∃ (evs : List Event) (env : Env), evs.map Event.untimed = traceWR s.args[0] ∧
      exec .writeWord s = .next ((s.afterEvents evs).latched env)))

/-- 42_registerio.md R182: three frames, never one. -/
def Obligations.WriteRegisterSendsThreeFrames : Prop :=
  decode 0x0012 = .ok .writeRegister ∧
  (∀ s : State, s.seq = .idle → s.lc = .unreset ∨ s.lc = .failed →
    exec .writeRegister s = .next (s.setFlag .errState)) ∧
  (∀ s : State, s.quiet → s.lc ≠ .unreset → s.lc ≠ .failed →
    ∃ (evs : List Event) (env : Env), evs.map Event.untimed = traceCMD 0x0011 ++ traceWR s.args[0] ++ traceWR s.args[1] ∧
      exec .writeRegister s = .next ((s.afterEvents evs).latched env))

/-- 42_registerio.md R183: the high half to `base + 2`, then the low half to `base`. -/
def Obligations.SetTargetAddrSendsHighHalfFirst : Prop :=
  decode 0x0013 = .ok .setTargetAddr ∧
  (∀ s : State, s.seq = .idle → s.lc = .unreset ∨ s.lc = .failed →
    exec .setTargetAddr s = .next (s.setFlag .errState)) ∧
  (∀ s : State, s.quiet → s.lc ≠ .unreset → s.lc ≠ .failed →
    ∃ (evs : List Event) (env : Env), evs.map Event.untimed = traceREG 0x020A s.args[1] ++ traceREG 0x0208 s.args[0] ∧
      exec .setTargetAddr s = .next ((s.afterEvents evs).latched env))

/-- 42_registerio.md R184: the command and then `n` argument frames in register order; `n > 8` raises ERR_ILLEGAL. -/
def Obligations.WriteArgsSendsArgumentsInOrder : Prop :=
  (∀ cnt : BitVec 4, cnt.toNat ≤ 8 → decode (BitVec.ofNat 16 (cnt.toNat * 256 + 0x14)) = .ok (.writeArgs cnt)) ∧
  (∀ (cnt : BitVec 4) (s : State), cnt.toNat ≤ 8 → s.seq = .idle → s.lc = .unreset ∨ s.lc = .failed →
    exec (.writeArgs cnt) s = .next (s.setFlag .errState)) ∧
  (∀ (cnt : BitVec 4) (s : State), 8 < cnt.toNat → s.seq = .idle →
    exec (.writeArgs cnt) s = .next (s.setFlag .errIllegal)) ∧
  (∀ (cnt : BitVec 4) (s : State), cnt.toNat ≤ 8 → s.quiet → s.lc ≠ .unreset → s.lc ≠ .failed →
    ∃ (evs : List Event) (env : Env) (args : List Word), args.length = cnt.toNat ∧
      (∀ i : Fin 8, i.val < cnt.toNat → args[i.val]? = some s.args[i.succ]) ∧
      evs.map Event.untimed = traceCMD s.args[0] ++ args.flatMap traceWR ∧
      exec (.writeArgs cnt) s = .next ((s.afterEvents evs).latched env))

/-- 42_registerio.md R186: the read frame, and RDATA takes the word the controller drives. -/
def Obligations.ReadWordStoresTheWordRead : Prop :=
  decode 0x0015 = .ok .readWord ∧
  (∀ s : State, s.seq = .idle → s.lc = .unreset ∨ s.lc = .failed →
    exec .readWord s = .next (s.setFlag .errState)) ∧
  (∀ s : State, s.quiet → s.lc ≠ .unreset → s.lc ≠ .failed →
    ∃ (evs : List Event) (env : Env) (d : Word), Env.coming 1 s.env = [d] ∧
      evs.map Event.untimed = [.sel .active, .ready, .tx 0x1000, .ready, .tx 0x0000, .ready, .rx d, .sel .inactive] ∧
      exec .readWord s = .next (({ s.afterEvents evs with rdata := d } : State).latched env))

/-- 42_registerio.md R187: one preamble, `n` words in a row, copied out to RDBUF[0..n-1]; more than 20 is ERR_ALLOC. -/
def Obligations.ReadWordsFillsTheReadBuffer : Prop :=
  decode 0x0016 = .ok .readWords ∧
  (∀ s : State, s.seq = .idle → s.lc = .unreset ∨ s.lc = .failed →
    exec .readWords s = .next (s.setFlag .errState)) ∧
  (∀ s : State, s.seq = .idle → s.lc ≠ .unreset → s.lc ≠ .failed → 20 < s.args[0].toNat →
    exec .readWords s = .next (s.setFlag .errAlloc)) ∧
  (∀ s : State, s.quiet → s.lc ≠ .unreset → s.lc ≠ .failed → s.args[0].toNat ≤ 20 →
    ∃ (evs : List Event) (env : Env) (buf : Vector Word 20), evs.map Event.untimed = traceRDS (Env.coming s.args[0].toNat s.env) ∧
      (∀ i : Fin 20, buf[i] = if i.val < s.args[0].toNat
        then (Env.coming s.args[0].toNat s.env).getD i.val 0 else s.rdbuf[i]) ∧
      exec .readWords s = .next (({ s.afterEvents evs with rdbuf := buf } : State).latched env))

/-- 42_registerio.md R188: command, address, one read; RDATA takes the word. -/
def Obligations.ReadRegisterStoresTheWordRead : Prop :=
  decode 0x0017 = .ok .readRegister ∧
  (∀ s : State, s.seq = .idle → s.lc = .unreset ∨ s.lc = .failed →
    exec .readRegister s = .next (s.setFlag .errState)) ∧
  (∀ s : State, s.quiet → s.lc ≠ .unreset → s.lc ≠ .failed →
    ∃ (evs : List Event) (env : Env) (d : Word), Env.coming 1 s.env = [d] ∧
      evs.map Event.untimed = traceCMD 0x0010 ++ traceWR s.args[0] ++ traceRD d ∧
      exec .readRegister s = .next (({ s.afterEvents evs with rdata := d } : State).latched env))

/-! ## Bring-up operations -/

/-- 43_init.md R211: the reset sequence, with no wait and no frame, and LC becomes RESET. -/
def Obligations.ResetPanelPulsesReset : Prop :=
  decode 0x0020 = .ok .resetPanel ∧
  (∀ s : State, s.seq = .idle → s.lc ≠ .unreset → exec .resetPanel s = .next (s.setFlag .errState)) ∧
  (∀ s : State, s.quiet → s.lc = .unreset →
    exec .resetPanel s = .next (({ s.afterEvents [.rst .low, .delay 20, .rst .high, .delay 100] with
      lc := .reset } : State).latched s.env))

/-- 43_init.md R212: LC becomes RUNNING, whether or not a wait timed out. -/
def Obligations.SystemRunSendsSystemRun : Prop :=
  decode 0x0021 = .ok .systemRun ∧
  (∀ s : State, s.seq = .idle → s.lc ≠ .reset → exec .systemRun s = .next (s.setFlag .errState)) ∧
  (∀ s : State, s.quiet → s.lc = .reset →
    ∃ (evs : List Event) (env : Env), evs.map Event.untimed = traceCMD 0x0001 ∧
      exec .systemRun s = .next (({ s.afterEvents evs with lc := .running } : State).latched env))

/-- 43_init.md R213: pack-write enable, then VCOM with its fixed arguments, and LC becomes CONFIGURED. -/
def Obligations.ConfigureSendsPackEnableAndVcom : Prop :=
  decode 0x0022 = .ok .configure ∧
  (∀ s : State, s.seq = .idle → s.lc ≠ .running → exec .configure s = .next (s.setFlag .errState)) ∧
  (∀ s : State, s.quiet → s.lc = .running →
    ∃ (evs : List Event) (env : Env), evs.map Event.untimed
        = traceREG 0x0004 0x0001 ++ traceCMD 0x0039 ++ traceWR 0x0001 ++ traceWR 2300 ∧
      exec .configure s = .next (({ s.afterEvents evs with lc := .configured } : State).latched env))

/-- 43_init.md R214: the record is read and copied out; an unusable one ends in FAILED with its sticky bit and no other
effect; a usable one sets the device registers, GEOM_KNOWN and READY and zero-fills the framebuffer. -/
def Obligations.GetDeviceInfoAcceptsOrFails : Prop :=
  decode 0x0023 = .ok .getDeviceInfo ∧
  (∀ s : State, s.seq = .idle → s.lc ≠ .configured → exec .getDeviceInfo s = .next (s.setFlag .errState)) ∧
  (∀ s : State, s.quiet → s.lc = .configured →
    ∃ (evs : List Event) (env : Env) (r : Vector Word 20), r.toList = Env.coming 20 s.env ∧
      evs.map Event.untimed = traceCMD 0x0302 ++ traceRDS r.toList ∧
      let w := r[0].toNat
      let h := r[1].toNat
      let t : State := { s.afterEvents evs with rdbuf := r }
      (w = 0 ∨ h = 0 ∨ w % 4 ≠ 0 →
        exec .getDeviceInfo s = .next (({ t.setFlag .errDevinfo with lc := .failed } : State).latched env)) ∧
      (¬ (w = 0 ∨ h = 0 ∨ w % 4 ≠ 0) → 259200 < w / 2 * h →
        exec .getDeviceInfo s = .next (({ t.setFlag .errAlloc with lc := .failed } : State).latched env)) ∧
      (¬ (w = 0 ∨ h = 0 ∨ w % 4 ≠ 0) → w / 2 * h ≤ 259200 →
        exec .getDeviceInfo s = .next (({ t with
          panelW := r[0], panelH := r[1], imgbufL := r[2], imgbufH := r[3]
          fwver := Vector.ofFn fun i => r[4 + i.val], lutver := Vector.ofFn fun i => r[12 + i.val]
          geomKnown := true, fb := s.fb.zeroFill (w / 2 * h), lc := .ready } : State).latched env)))

/-- 43_init.md R216: the four bodies in order and, if READY is reached, the init clear with the latched polarity. -/
def Obligations.SetupBringsUpAndClears : Prop :=
  decode 0x0024 = .ok .setup ∧
  (∀ s : State, s.seq = .idle → s.lc ≠ .unreset → exec .setup s = .next (s.setFlag .errState)) ∧
  (∀ s : State, s.quiet → s.lc = .unreset →
    ∃ (evs : List Event) (env : Env) (r : Vector Word 20) (tail : List Event), r.toList = Env.coming 20 s.env ∧
      evs.map Event.untimed
        = [.rst .low, .delay 20, .rst .high, .delay 100] ++ traceCMD 0x0001
          ++ traceREG 0x0004 0x0001 ++ traceCMD 0x0039 ++ traceWR 0x0001 ++ traceWR 2300
          ++ traceCMD 0x0302 ++ traceRDS r.toList ++ tail ∧
      let w := r[0].toNat
      let h := r[1].toNat
      let t : State := { s.afterEvents evs with rdbuf := r }
      (w = 0 ∨ h = 0 ∨ w % 4 ≠ 0 → tail = [] ∧
        exec .setup s = .next (({ t.setFlag .errDevinfo with lc := .failed } : State).latched env)) ∧
      (¬ (w = 0 ∨ h = 0 ∨ w % 4 ≠ 0) → 259200 < w / 2 * h → tail = [] ∧
        exec .setup s = .next (({ t.setFlag .errAlloc with lc := .failed } : State).latched env)) ∧
      (¬ (w = 0 ∨ h = 0 ∨ w % 4 ≠ 0) → w / 2 * h ≤ 259200 →
        (∃ a u, tail = a ++ u ∧
          isAreaLoadTrace r[3] r[2] 0 0 r[0] r[1]
            (List.replicate (w / 4 * h) (if s.reversed then 0x0000 else 0xFFFF)) a ∧
          isUpdateTrace r[3] r[2] 0 0 r[0] r[1] 0 u) ∧
        exec .setup s = .next (({ t with
          panelW := r[0], panelH := r[1], imgbufL := r[2], imgbufH := r[3]
          fwver := Vector.ofFn fun i => r[4 + i.val], lutver := Vector.ofFn fun i => r[12 + i.val]
          geomKnown := true, fb := s.fb.zeroFill (w / 2 * h), lc := .ready } : State).latched env)))

/-- 70_reset_and_hazards.md R342: SETUP is RESET_PANEL, SYSTEM_RUN, CONFIGURE, GET_DEVICE_INFO and, if READY is reached,
CLEAR 1, but for the operands and latches of that CLEAR. -/
def Obligations.SetupIsTheStepwiseBringUp : Prop :=
  ∀ s : State, s.quiet → s.lc = .unreset →
    ∃ t a b c d, exec .setup s = .next t ∧ exec .resetPanel s = .next a ∧ exec .systemRun a = .next b ∧
      exec .configure b = .next c ∧ exec .getDeviceInfo c = .next d ∧
      (d.lc ≠ .ready → t = d) ∧
      (d.lc = .ready → ∃ e, exec .clear { d with args := d.args.set 0 1 } = .next e ∧
        t = { e with args := s.args, lat := t.lat })

/-! ## Writer operations -/

/-- 45_writer.md R270, 60_exceptions.md R304: the checks of WRITE_REGION in their order (the gate, the silent origin, the
alignment, the source range), then the area load of the framebuffer bytes from `src` on, each word inverted unless
REVERSED. -/
def Obligations.WriteRegionLoadsTheArea : Prop :=
  decode 0x0040 = .ok .writeRegion ∧
  (∀ s : State,
    let x := s.args[0].toNat
    let y := s.args[1].toNat
    let w := s.args[2].toNat
    let h := s.args[3].toNat
    let src := s.args[5].toNat * 65536 + s.args[4].toNat
    let outside := s.width.toNat < x ∨ s.height.toNat < y
    (s.seq = .idle → s.lc ≠ .ready → exec .writeRegion s = .next (s.setFlag .errState)) ∧
    (s.quiet → s.lc = .ready → outside → exec .writeRegion s = .next (s.latched s.env)) ∧
    (s.seq = .idle → s.lc = .ready → ¬ outside → x % 4 ≠ 0 ∨ w % 4 ≠ 0 →
      exec .writeRegion s = .next (s.setFlag .errAlign)) ∧
    (s.seq = .idle → s.lc = .ready → ¬ outside → x % 4 = 0 → w % 4 = 0 → 259200 < src + 2 * (w / 4 * h) →
      exec .writeRegion s = .next (s.setFlag .errBounds))) ∧
  ∀ s : State, s.quiet → s.lc = .ready →
    let x := s.args[0]
    let y := s.args[1]
    let w := s.args[2]
    let h := s.args[3]
    let src := s.args[5].toNat * 65536 + s.args[4].toNat
    let n := w.toNat / 4 * h.toNat
    x.toNat ≤ s.width.toNat → y.toNat ≤ s.height.toNat → x.toNat % 4 = 0 → w.toNat % 4 = 0 → src + 2 * n ≤ 259200 →
      ∃ (evs : List Event) (env : Env) (pixels : List Word), pixels.length = n ∧
        (∀ k, k < n → (pixels.getD k 0).toNat =
          (let raw := (s.fbByte (src + 2 * k)).toNat * 256 + (s.fbByte (src + 2 * k + 1)).toNat
           if s.reversed then raw else 65535 - raw)) ∧
        isAreaLoadTrace s.imgbufH s.imgbufL x y w h pixels (evs.map Event.untimed) ∧
        exec .writeRegion s = .next ((s.afterEvents evs).latched env)

/-- 45_writer.md R271, R264, R261: MODE_NONE sends nothing, an origin beyond the panel is ERR_BOUNDS, and otherwise one
update with its extents clipped to the panel. -/
def Obligations.UpdateRegionClipsToThePanel : Prop :=
  decode 0x0041 = .ok .updateRegion ∧
  (∀ s : State, s.seq = .idle → s.lc ≠ .ready → exec .updateRegion s = .next (s.setFlag .errState)) ∧
  (∀ s : State, s.quiet → s.lc = .ready → s.args[4] = 8 → exec .updateRegion s = .next (s.latched s.env)) ∧
  (∀ s : State, s.seq = .idle → s.lc = .ready → s.args[4] ≠ 8 →
    s.width.toNat < s.args[0].toNat ∨ s.height.toNat < s.args[1].toNat →
      exec .updateRegion s = .next (s.setFlag .errBounds)) ∧
  (∀ s : State, s.quiet → s.lc = .ready → s.args[4] ≠ 8 →
    s.args[0].toNat ≤ s.width.toNat → s.args[1].toNat ≤ s.height.toNat →
      ∃ (evs : List Event) (env : Env) (w h : Word), w.toNat = min s.args[2].toNat (s.width.toNat - s.args[0].toNat) ∧
        h.toNat = min s.args[3].toNat (s.height.toNat - s.args[1].toNat) ∧
        isUpdateTrace s.imgbufH s.imgbufL s.args[0] s.args[1] w h s.args[4] (evs.map Event.untimed) ∧
        exec .updateRegion s = .next ((s.afterEvents evs).latched env))

/-- 45_writer.md R272: in READY the whole framebuffer and then one full-panel fast update; a silent no-op elsewhere. A
geometry larger than the RAM, which no run reaches, faults: that is the model's choice (log 18). -/
def Obligations.WriteDisplayStreamsTheFramebuffer : Prop :=
  decode 0x0042 = .ok .writeDisplay ∧
  (∀ s : State, s.quiet → s.lc ≠ .ready → exec .writeDisplay s = .next (s.latched s.env)) ∧
  (∀ s : State, s.quiet → s.lc = .ready →
    let n := s.width.toNat / 4 * s.height.toNat
    2 * n ≤ 259200 →
      ∃ (evs : List Event) (env : Env) (pixels : List Word) (a u : List Event), pixels.length = n ∧
        (∀ k, k < n → (pixels.getD k 0).toNat =
          (let raw := (s.fbByte (2 * k)).toNat * 256 + (s.fbByte (2 * k + 1)).toNat
           if s.reversed then raw else 65535 - raw)) ∧
        isAreaLoadTrace s.imgbufH s.imgbufL 0 0 s.width s.height pixels a ∧
        isUpdateTrace s.imgbufH s.imgbufL 0 0 s.width s.height 6 u ∧
        evs.map Event.untimed = a ++ u ∧
        exec .writeDisplay s = .next ((s.afterEvents evs).latched env)) ∧
  (∀ s : State, s.seq = .idle → s.lc = .ready → 259200 < 2 * (s.width.toNat / 4 * s.height.toNat) →
    exec .writeDisplay s = .fault .framebufferAddress)

/-- 45_writer.md R272: WRITE_DISPLAY is exactly WRITE_REGION(0, 0, W, H, 0) followed by UPDATE_REGION(0, 0, W, H, FAST4), but
for the operands and latches of those two. -/
def Obligations.WriteDisplayIsRegionThenUpdate : Prop :=
  ∀ s : State, s.quiet → s.lc = .ready → s.width.toNat % 4 = 0 →
    2 * (s.width.toNat / 4 * s.height.toNat) ≤ 259200 →
      ∃ t a b, exec .writeDisplay s = .next t ∧
        exec .writeRegion { s with args := #v[0, 0, s.width, s.height, 0, 0, 0, 0, 0] } = .next a ∧
        exec .updateRegion { a with args := #v[0, 0, s.width, s.height, 6, 0, 0, 0, 0] } = .next b ∧
        t = { b with args := s.args, lat := t.lat }

/-- 45_writer.md R273: the constant word over the whole panel, the init update if bit 0 asks for it, and the RAM neither read
nor written. -/
def Obligations.ClearStreamsTheConstantWord : Prop :=
  decode 0x0043 = .ok .clear ∧
  (∀ s : State, s.seq = .idle → s.lc ≠ .ready → exec .clear s = .next (s.setFlag .errState)) ∧
  (∀ s : State, s.quiet → s.lc = .ready →
    ∃ (evs : List Event) (env : Env) (a u : List Event),
      isAreaLoadTrace s.imgbufH s.imgbufL 0 0 s.width s.height
        (List.replicate (s.width.toNat / 4 * s.height.toNat) (if s.reversed then 0x0000 else 0xFFFF)) a ∧
      (if s.args[0].toNat % 2 = 1
        then isUpdateTrace s.imgbufH s.imgbufL 0 0 s.width s.height 0 u else u = []) ∧
      evs.map Event.untimed = a ++ u ∧
      exec .clear s = .next ((s.afterEvents evs).latched env))

/-! ## Rules about the whole machine -/

/-- 43_init.md R210, 42_registerio.md R185: only the five bring-up operations move LC, each only from its required state and
along its row; a host step in the middle of SETUP may see it on the way. -/
def Obligations.OnlyBringUpMovesTheLifecycle : Prop :=
  ∀ (i : Instr) (s t : State), exec i s = .next t → t.lc ≠ s.lc →
    (i = .resetPanel ∧ s.lc = .unreset ∧ t.lc = .reset) ∨
    (i = .systemRun ∧ s.lc = .reset ∧ t.lc = .running) ∨
    (i = .configure ∧ s.lc = .running ∧ t.lc = .configured) ∨
    (i = .getDeviceInfo ∧ s.lc = .configured ∧ (t.lc = .ready ∨ t.lc = .failed)) ∨
    (i = .setup ∧ s.lc = .unreset ∧ (t.seq = .idle → t.lc = .ready ∨ t.lc = .failed))

/-- 10_state.md R31, R42, R43, R45, 20_memory.md R80: which operations write which state. No operation writes ARG, CTRL, CMD,
or what lies outside the block but for the environment's and the host's coming choices. -/
def Obligations.OperationsWriteOnlyTheirOwnState : Prop :=
  ∀ (i : Instr) (s t : State), exec i s = .next t →
    (i ≠ .readWord → i ≠ .readRegister → i ≠ .readFbByte → t.rdata = s.rdata) ∧
    (i ≠ .readWords → i ≠ .getDeviceInfo → i ≠ .setup → t.rdbuf = s.rdbuf) ∧
    (i ≠ .getDeviceInfo → i ≠ .setup →
      t.panelW = s.panelW ∧ t.panelH = s.panelH ∧ t.imgbufL = s.imgbufL ∧ t.imgbufH = s.imgbufH ∧
      t.fwver = s.fwver ∧ t.lutver = s.lutver ∧ t.geomKnown = s.geomKnown) ∧
    (i ≠ .setPixel → i ≠ .getDeviceInfo → i ≠ .setup → t.fb = s.fb) ∧
    (i ≠ .resetPanel → i ≠ .setup → t.rstOut = s.rstOut) ∧
    t.args = s.args ∧ t.reversed = s.reversed ∧ t.cmd = s.cmd ∧ t.resetIn = s.resetIn ∧ t.fbEpoch = s.fbEpoch ∧
    t.busReads = s.busReads ∧ t.readDraws = s.readDraws

/-- 43_init.md R215: in FAILED every operation but NOP, READ_FB_BYTE and WRITE_DISPLAY sets ERR_STATE and nothing else,
WRITE_DISPLAY is silent, and only an engine reset leaves FAILED. -/
def Obligations.FailedIsTerminal : Prop :=
  (∀ (i : Instr) (s : State), s.lc = .failed → s.seq = .idle → i.wellFormed = true →
    i ≠ .nop → i ≠ .readFbByte → i ≠ .writeDisplay → exec i s = .next (s.setFlag .errState)) ∧
  (∀ s : State, s.lc = .failed → s.quiet → exec .writeDisplay s = .next (s.latched s.env)) ∧
  (∀ s t : State, s.lc = .failed → s.seq = .idle → step s = .next t → t.lc ≠ .failed →
    ∃ h rest, s.inbox = h :: rest ∧ h.act = .resetIn true) ∧
  (∀ (i : Instr) (s t : State) (n : Nat), s.lc = .failed → s.seq = .idle → exec i s = .next t →
    (State.microSteps n t).lc = .failed)

/-- 41_handshake.md R160, 70_reset_and_hazards.md R361: on a quiet block every operation that gives a next state has run to
its end, with SEL_OUT inactive if it was so before, and TRACE has only grown. -/
def Obligations.OperationsEndWithSelectInactive : Prop :=
  ∀ (i : Instr) (s t : State), s.quiet → s.selOut = .inactive → exec i s = .next t →
    t.seq = .idle ∧ t.selOut = .inactive ∧ ∃ evs, t.trace = s.trace ++ evs ∧ frameState evs = some .outside

/-- 60_exceptions.md R305: what the samples of the waits are decides which waits show `W!` and whether WARN_TIMEOUT is set,
and nothing else: the operation performs as many micro-steps and leaves every other piece of state the same. -/
def Obligations.TimeoutsChangeNothingElse : Prop :=
  ∀ (i : Instr) (s t : State) (waits : List (Bool × List Bool)) (n : Nat), exec i s = .next t →
    ∃ u, exec i { s with env := { s.env with waits := waits, waitDraws := n } } = .next u ∧
      u.trace.map Event.untimed = t.trace.map Event.untimed ∧
      u.sticky ||| stickyMask .warnTimeout = t.sticky ||| stickyMask .warnTimeout ∧
      u.seq.left = t.seq.left ∧
      u = { t with traceRev := u.traceRev, sticky := u.sticky, seq := u.seq,
                   env := { t.env with waits := u.env.waits, waitDraws := u.env.waitDraws } }

/-- 10_state.md R47, 60_exceptions.md R302, 70_reset_and_hazards.md R353: a host write during an operation leaves the
operation's run as it would have been. -/
def Obligations.HostWritesDoNotDisturbARunningOperation : Prop :=
  ∀ (s : State) (off : BitVec 8) (w : Word), s.busy = true → s.resetIn = false → off.toNat % 2 = 0 →
    s.inbox = [⟨some 0, .write 16 off w⟩] →
      ∃ t u, step s = .next t ∧ step t = .next u ∧
        let v := (s.withInbox []).engineTurn
        t.busy = true ∧ t.lat = s.lat ∧ u.seq = v.seq ∧ u.trace = v.trace ∧ u.lc = v.lc ∧ u.rdata = v.rdata ∧
        u.rdbuf = v.rdbuf ∧ u.fb = v.fb ∧ u.panelW = v.panelW ∧ u.panelH = v.panelH ∧ u.imgbufL = v.imgbufL ∧
        u.imgbufH = v.imgbufH ∧ u.fwver = v.fwver ∧ u.lutver = v.lutver ∧ u.geomKnown = v.geomKnown ∧
        u.selOut = v.selOut ∧ u.rstOut = v.rstOut

/-- 41_handshake.md R150, 20_memory.md R95, R96: whatever host steps are coming, the micro-steps that an operation has left
when it is cut in on take it to the state it would have reached undisturbed; and when a host read cuts in after any number of
micro-steps, the machine ends there but for the value read. -/
def Obligations.InterruptedOperationEndsTheSame : Prop :=
  ∀ (i : Instr) (s t : State), s.quiet → exec i s = .next t →
    (∀ inbox : List HostStep, ∃ a, exec i (s.withInbox inbox) = .next a ∧
      (State.microSteps a.seq.left a).withInbox [] = t) ∧
    (∀ (k : Nat) (off : BitVec 8), off.toNat % 2 = 0 →
      ∃ a b c, exec i (s.withInbox [⟨some k, .read 16 off⟩]) = .next a ∧ step a = .next b ∧ step b = .next c ∧
        c = { t with busReads := c.busReads, readDraws := c.readDraws })

/-! ## Frames and pure functions -/

/-- 30_encoding.md R132: frames, TX units and RX units of the composite sequences; and R125, R126, 41_handshake.md R157: with
`P_WAIT_EACH_STREAM_WORD` a wait precedes every unit of a data phase but the first, and without it none does. -/
def Obligations.FrameCounts : Prop :=
  (∀ (u : Prim) (us : List Prim),
    dataPhase true (u :: us) = u :: us.flatMap (fun p => [.waitReady, p]) ∧ dataPhase false (u :: us) = u :: us ∧
    dataPhase true [] = [] ∧ dataPhase false [] = []) ∧
  ∀ (c d a v : Word) (addr : BitVec 32) (args ws : List Word) (e : Env),
    let count := fun ps : List Prim => frameCount (eventsOf (wire ps e).1)
    count (commandFrame c) = (1, 2, 0) ∧ count (writeFrame d) = (1, 2, 0) ∧
    count (writeRegisterFrames a v) = (3, 6, 0) ∧ count (targetAddrFrames addr) = (6, 12, 0) ∧
    count (argsFrames c args) = (1 + args.length, 2 + 2 * args.length, 0) ∧ count readFrame = (1, 2, 1) ∧
    (∀ n, count (bulkReadFrame false n) = (1, 2, n)) ∧ count (readRegisterFrames a) = (3, 6, 1) ∧
    count (streamFrame false ws) = (1, 1 + ws.length, 0)

/-- 30_encoding.md R117, R118: the host notation's lines and pseudo-instructions as register accesses; a 32-bit operand goes
low half first. That WAITIDLE is the one read that finds the engine idle is the model's reading (log 25). -/
def Obligations.HostNotationExpands : Prop :=
  (∀ a : BitVec 32, assemble (setTargetAddrForm a) =
    [⟨some 0, .write 16 0x08 (lowHalf a)⟩, ⟨some 0, .write 16 0x0A (highHalf a)⟩, ⟨some 0, .write 16 0x00 0x0013⟩,
     ⟨none, .read 16 0x02⟩]) ∧
  (∀ a : BitVec 32, assemble (readFbByteForm a) =
    [⟨some 0, .write 16 0x08 (lowHalf a)⟩, ⟨some 0, .write 16 0x0A (highHalf a)⟩, ⟨some 0, .write 16 0x00 0x0031⟩,
     ⟨none, .read 16 0x02⟩]) ∧
  (∀ (x y w h : Word) (src : BitVec 32), assemble (writeRegionForm x y w h src) =
    [⟨some 0, .write 16 0x08 x⟩, ⟨some 0, .write 16 0x0A y⟩, ⟨some 0, .write 16 0x0C w⟩, ⟨some 0, .write 16 0x0E h⟩,
     ⟨some 0, .write 16 0x10 (lowHalf src)⟩, ⟨some 0, .write 16 0x12 (highHalf src)⟩, ⟨some 0, .write 16 0x00 0x0040⟩,
     ⟨none, .read 16 0x02⟩]) ∧
  (∀ (c : Word) (args : List Word), args.length ≤ 8 →
    assemble (writeArgsForm c args) =
      ⟨some 0, .write 16 0x08 c⟩ ::
        (args.mapIdx fun i v => ⟨some 0, .write 16 (BitVec.ofNat 8 (0x0A + 2 * i)) v⟩)
        ++ [⟨some 0, .write 16 0x00 (BitVec.ofNat 16 (args.length * 256 + 0x14))⟩, ⟨none, .read 16 0x02⟩]) ∧
  assemble [.clrst, .ctrl 1, .op .nop] =
    [⟨some 0, .write 16 0x02 0xFF00⟩, ⟨some 0, .write 16 0x04 1⟩, ⟨some 0, .write 16 0x00 0⟩]

/-- 20_memory.md R85, R87, R88, 44_codec.md R240, 45_writer.md R260 to R262: byte and half orders and the pure functions, as
arithmetic. -/
def Obligations.PureFunctions : Prop :=
  (∀ (w hi lo : Word) (b0 b1 : Byte),
    (wireBytes w).map BitVec.toNat = [w.toNat / 256, w.toNat % 256] ∧
    (unitOfBytes b0 b1).toNat = b0.toNat * 256 + b1.toNat ∧
    (word32 hi lo).toNat = hi.toNat * 65536 + lo.toNat ∧
    highHalf (word32 hi lo) = hi ∧ lowHalf (word32 hi lo) = lo) ∧
  (∀ (old : Byte) (c : BitVec 4), (packPixel old true c).toNat = old.toNat / 16 * 16 + c.toNat ∧
    (packPixel old false c).toNat = c.toNat * 16 + old.toNat % 16) ∧
  (∀ b0 b1 : Byte, (encodeWord b0 b1 true).toNat = b0.toNat * 256 + b1.toNat ∧
    (encodeWord b0 b1 false).toNat = 65535 - (b0.toNat * 256 + b1.toNat)) ∧
  (∀ o e l : Word, o.toNat ≤ l.toNat → (clipExtent o e l).toNat = min e.toNat (l.toNat - o.toNat) ∧
    o.toNat + (clipExtent o e l).toNat ≤ l.toNat) ∧
  (∀ w h : Word, w.toNat % 4 = 0 → 2 * areaWords w h = fbLen w h)
end

