-- ==== Sys2Proof/Laws/State.lean ====
section
/-! SUPPORT. One lemma per field and update of State, true by rfl, and the fields no micro-step touches. -/

namespace Sys2Proof.Machine

/-! ## setFlag -/

@[simp] theorem State.cmd_setFlag (s : State) (c : Cause) : (s.setFlag c).cmd = s.cmd := rfl
@[simp] theorem State.reversed_setFlag (s : State) (c : Cause) : (s.setFlag c).reversed = s.reversed := rfl
@[simp] theorem State.rdata_setFlag (s : State) (c : Cause) : (s.setFlag c).rdata = s.rdata := rfl
@[simp] theorem State.args_setFlag (s : State) (c : Cause) : (s.setFlag c).args = s.args := rfl
@[simp] theorem State.panelW_setFlag (s : State) (c : Cause) : (s.setFlag c).panelW = s.panelW := rfl
@[simp] theorem State.panelH_setFlag (s : State) (c : Cause) : (s.setFlag c).panelH = s.panelH := rfl
@[simp] theorem State.imgbufL_setFlag (s : State) (c : Cause) : (s.setFlag c).imgbufL = s.imgbufL := rfl
@[simp] theorem State.imgbufH_setFlag (s : State) (c : Cause) : (s.setFlag c).imgbufH = s.imgbufH := rfl
@[simp] theorem State.fwver_setFlag (s : State) (c : Cause) : (s.setFlag c).fwver = s.fwver := rfl
@[simp] theorem State.lutver_setFlag (s : State) (c : Cause) : (s.setFlag c).lutver = s.lutver := rfl
@[simp] theorem State.rdbuf_setFlag (s : State) (c : Cause) : (s.setFlag c).rdbuf = s.rdbuf := rfl
@[simp] theorem State.lc_setFlag (s : State) (c : Cause) : (s.setFlag c).lc = s.lc := rfl
@[simp] theorem State.geomKnown_setFlag (s : State) (c : Cause) : (s.setFlag c).geomKnown = s.geomKnown := rfl
@[simp] theorem State.sticky_setFlag (s : State) (c : Cause) : (s.setFlag c).sticky = s.sticky ||| stickyMask c := rfl
@[simp] theorem State.seq_setFlag (s : State) (c : Cause) : (s.setFlag c).seq = s.seq := rfl
@[simp] theorem State.lat_setFlag (s : State) (c : Cause) : (s.setFlag c).lat = s.lat := rfl
@[simp] theorem State.selOut_setFlag (s : State) (c : Cause) : (s.setFlag c).selOut = s.selOut := rfl
@[simp] theorem State.rstOut_setFlag (s : State) (c : Cause) : (s.setFlag c).rstOut = s.rstOut := rfl
@[simp] theorem State.fb_setFlag (s : State) (c : Cause) : (s.setFlag c).fb = s.fb := rfl
@[simp] theorem State.traceRev_setFlag (s : State) (c : Cause) : (s.setFlag c).traceRev = s.traceRev := rfl
@[simp] theorem State.resetIn_setFlag (s : State) (c : Cause) : (s.setFlag c).resetIn = s.resetIn := rfl
@[simp] theorem State.fbEpoch_setFlag (s : State) (c : Cause) : (s.setFlag c).fbEpoch = s.fbEpoch := rfl
@[simp] theorem State.env_setFlag (s : State) (c : Cause) : (s.setFlag c).env = s.env := rfl
@[simp] theorem State.inbox_setFlag (s : State) (c : Cause) : (s.setFlag c).inbox = s.inbox := rfl
@[simp] theorem State.busReads_setFlag (s : State) (c : Cause) : (s.setFlag c).busReads = s.busReads := rfl
@[simp] theorem State.readDraws_setFlag (s : State) (c : Cause) : (s.setFlag c).readDraws = s.readDraws := rfl

/-! ## raise -/

@[simp] theorem State.cmd_raise (s : State) (c : Cause) : (s.raise c).cmd = s.cmd := rfl
@[simp] theorem State.reversed_raise (s : State) (c : Cause) : (s.raise c).reversed = s.reversed := rfl
@[simp] theorem State.rdata_raise (s : State) (c : Cause) : (s.raise c).rdata = s.rdata := rfl
@[simp] theorem State.args_raise (s : State) (c : Cause) : (s.raise c).args = s.args := rfl
@[simp] theorem State.panelW_raise (s : State) (c : Cause) : (s.raise c).panelW = s.panelW := rfl
@[simp] theorem State.panelH_raise (s : State) (c : Cause) : (s.raise c).panelH = s.panelH := rfl
@[simp] theorem State.imgbufL_raise (s : State) (c : Cause) : (s.raise c).imgbufL = s.imgbufL := rfl
@[simp] theorem State.imgbufH_raise (s : State) (c : Cause) : (s.raise c).imgbufH = s.imgbufH := rfl
@[simp] theorem State.fwver_raise (s : State) (c : Cause) : (s.raise c).fwver = s.fwver := rfl
@[simp] theorem State.lutver_raise (s : State) (c : Cause) : (s.raise c).lutver = s.lutver := rfl
@[simp] theorem State.rdbuf_raise (s : State) (c : Cause) : (s.raise c).rdbuf = s.rdbuf := rfl
@[simp] theorem State.lc_raise (s : State) (c : Cause) : (s.raise c).lc = s.lc := rfl
@[simp] theorem State.geomKnown_raise (s : State) (c : Cause) : (s.raise c).geomKnown = s.geomKnown := rfl
@[simp] theorem State.sticky_raise (s : State) (c : Cause) : (s.raise c).sticky = s.sticky ||| stickyMask c := rfl
@[simp] theorem State.seq_raise (s : State) (c : Cause) : (s.raise c).seq = s.seq := rfl
@[simp] theorem State.lat_raise (s : State) (c : Cause) : (s.raise c).lat = s.lat := rfl
@[simp] theorem State.selOut_raise (s : State) (c : Cause) : (s.raise c).selOut = s.selOut := rfl
@[simp] theorem State.rstOut_raise (s : State) (c : Cause) : (s.raise c).rstOut = s.rstOut := rfl
@[simp] theorem State.fb_raise (s : State) (c : Cause) : (s.raise c).fb = s.fb := rfl
@[simp] theorem State.traceRev_raise (s : State) (c : Cause) : (s.raise c).traceRev = s.traceRev := rfl
@[simp] theorem State.resetIn_raise (s : State) (c : Cause) : (s.raise c).resetIn = s.resetIn := rfl
@[simp] theorem State.fbEpoch_raise (s : State) (c : Cause) : (s.raise c).fbEpoch = s.fbEpoch := rfl
@[simp] theorem State.env_raise (s : State) (c : Cause) : (s.raise c).env = s.env := rfl
@[simp] theorem State.inbox_raise (s : State) (c : Cause) : (s.raise c).inbox = s.inbox := rfl
@[simp] theorem State.busReads_raise (s : State) (c : Cause) : (s.raise c).busReads = s.busReads := rfl
@[simp] theorem State.readDraws_raise (s : State) (c : Cause) : (s.raise c).readDraws = s.readDraws := rfl

/-! ## clearFlags -/

@[simp] theorem State.cmd_clearFlags (s : State) (w : Word) : (s.clearFlags w).cmd = s.cmd := rfl
@[simp] theorem State.reversed_clearFlags (s : State) (w : Word) : (s.clearFlags w).reversed = s.reversed := rfl
@[simp] theorem State.rdata_clearFlags (s : State) (w : Word) : (s.clearFlags w).rdata = s.rdata := rfl
@[simp] theorem State.args_clearFlags (s : State) (w : Word) : (s.clearFlags w).args = s.args := rfl
@[simp] theorem State.panelW_clearFlags (s : State) (w : Word) : (s.clearFlags w).panelW = s.panelW := rfl
@[simp] theorem State.panelH_clearFlags (s : State) (w : Word) : (s.clearFlags w).panelH = s.panelH := rfl
@[simp] theorem State.imgbufL_clearFlags (s : State) (w : Word) : (s.clearFlags w).imgbufL = s.imgbufL := rfl
@[simp] theorem State.imgbufH_clearFlags (s : State) (w : Word) : (s.clearFlags w).imgbufH = s.imgbufH := rfl
@[simp] theorem State.fwver_clearFlags (s : State) (w : Word) : (s.clearFlags w).fwver = s.fwver := rfl
@[simp] theorem State.lutver_clearFlags (s : State) (w : Word) : (s.clearFlags w).lutver = s.lutver := rfl
@[simp] theorem State.rdbuf_clearFlags (s : State) (w : Word) : (s.clearFlags w).rdbuf = s.rdbuf := rfl
@[simp] theorem State.lc_clearFlags (s : State) (w : Word) : (s.clearFlags w).lc = s.lc := rfl
@[simp] theorem State.geomKnown_clearFlags (s : State) (w : Word) : (s.clearFlags w).geomKnown = s.geomKnown := rfl
@[simp] theorem State.sticky_clearFlags (s : State) (w : Word) : (s.clearFlags w).sticky = s.sticky &&& ~~~(w.extractLsb' 8 8) := rfl
@[simp] theorem State.seq_clearFlags (s : State) (w : Word) : (s.clearFlags w).seq = s.seq := rfl
@[simp] theorem State.lat_clearFlags (s : State) (w : Word) : (s.clearFlags w).lat = s.lat := rfl
@[simp] theorem State.selOut_clearFlags (s : State) (w : Word) : (s.clearFlags w).selOut = s.selOut := rfl
@[simp] theorem State.rstOut_clearFlags (s : State) (w : Word) : (s.clearFlags w).rstOut = s.rstOut := rfl
@[simp] theorem State.fb_clearFlags (s : State) (w : Word) : (s.clearFlags w).fb = s.fb := rfl
@[simp] theorem State.traceRev_clearFlags (s : State) (w : Word) : (s.clearFlags w).traceRev = s.traceRev := rfl
@[simp] theorem State.resetIn_clearFlags (s : State) (w : Word) : (s.clearFlags w).resetIn = s.resetIn := rfl
@[simp] theorem State.fbEpoch_clearFlags (s : State) (w : Word) : (s.clearFlags w).fbEpoch = s.fbEpoch := rfl
@[simp] theorem State.env_clearFlags (s : State) (w : Word) : (s.clearFlags w).env = s.env := rfl
@[simp] theorem State.inbox_clearFlags (s : State) (w : Word) : (s.clearFlags w).inbox = s.inbox := rfl
@[simp] theorem State.busReads_clearFlags (s : State) (w : Word) : (s.clearFlags w).busReads = s.busReads := rfl
@[simp] theorem State.readDraws_clearFlags (s : State) (w : Word) : (s.clearFlags w).readDraws = s.readDraws := rfl

/-! ## emit -/

@[simp] theorem State.cmd_emit (s : State) (e : Event) : (s.emit e).cmd = s.cmd := rfl
@[simp] theorem State.reversed_emit (s : State) (e : Event) : (s.emit e).reversed = s.reversed := rfl
@[simp] theorem State.rdata_emit (s : State) (e : Event) : (s.emit e).rdata = s.rdata := rfl
@[simp] theorem State.args_emit (s : State) (e : Event) : (s.emit e).args = s.args := rfl
@[simp] theorem State.panelW_emit (s : State) (e : Event) : (s.emit e).panelW = s.panelW := rfl
@[simp] theorem State.panelH_emit (s : State) (e : Event) : (s.emit e).panelH = s.panelH := rfl
@[simp] theorem State.imgbufL_emit (s : State) (e : Event) : (s.emit e).imgbufL = s.imgbufL := rfl
@[simp] theorem State.imgbufH_emit (s : State) (e : Event) : (s.emit e).imgbufH = s.imgbufH := rfl
@[simp] theorem State.fwver_emit (s : State) (e : Event) : (s.emit e).fwver = s.fwver := rfl
@[simp] theorem State.lutver_emit (s : State) (e : Event) : (s.emit e).lutver = s.lutver := rfl
@[simp] theorem State.rdbuf_emit (s : State) (e : Event) : (s.emit e).rdbuf = s.rdbuf := rfl
@[simp] theorem State.lc_emit (s : State) (e : Event) : (s.emit e).lc = s.lc := rfl
@[simp] theorem State.geomKnown_emit (s : State) (e : Event) : (s.emit e).geomKnown = s.geomKnown := rfl
@[simp] theorem State.sticky_emit (s : State) (e : Event) : (s.emit e).sticky = s.sticky := rfl
@[simp] theorem State.seq_emit (s : State) (e : Event) : (s.emit e).seq = s.seq := rfl
@[simp] theorem State.lat_emit (s : State) (e : Event) : (s.emit e).lat = s.lat := rfl
@[simp] theorem State.selOut_emit (s : State) (e : Event) : (s.emit e).selOut = s.selOut := rfl
@[simp] theorem State.rstOut_emit (s : State) (e : Event) : (s.emit e).rstOut = s.rstOut := rfl
@[simp] theorem State.fb_emit (s : State) (e : Event) : (s.emit e).fb = s.fb := rfl
@[simp] theorem State.traceRev_emit (s : State) (e : Event) : (s.emit e).traceRev = e :: s.traceRev := rfl
@[simp] theorem State.resetIn_emit (s : State) (e : Event) : (s.emit e).resetIn = s.resetIn := rfl
@[simp] theorem State.fbEpoch_emit (s : State) (e : Event) : (s.emit e).fbEpoch = s.fbEpoch := rfl
@[simp] theorem State.env_emit (s : State) (e : Event) : (s.emit e).env = s.env := rfl
@[simp] theorem State.inbox_emit (s : State) (e : Event) : (s.emit e).inbox = s.inbox := rfl
@[simp] theorem State.busReads_emit (s : State) (e : Event) : (s.emit e).busReads = s.busReads := rfl
@[simp] theorem State.readDraws_emit (s : State) (e : Event) : (s.emit e).readDraws = s.readDraws := rfl

/-! ## afterEvents -/

@[simp] theorem State.cmd_afterEvents (s : State) (evs : List Event) : (s.afterEvents evs).cmd = s.cmd := rfl
@[simp] theorem State.reversed_afterEvents (s : State) (evs : List Event) : (s.afterEvents evs).reversed = s.reversed := rfl
@[simp] theorem State.rdata_afterEvents (s : State) (evs : List Event) : (s.afterEvents evs).rdata = s.rdata := rfl
@[simp] theorem State.args_afterEvents (s : State) (evs : List Event) : (s.afterEvents evs).args = s.args := rfl
@[simp] theorem State.panelW_afterEvents (s : State) (evs : List Event) : (s.afterEvents evs).panelW = s.panelW := rfl
@[simp] theorem State.panelH_afterEvents (s : State) (evs : List Event) : (s.afterEvents evs).panelH = s.panelH := rfl
@[simp] theorem State.imgbufL_afterEvents (s : State) (evs : List Event) : (s.afterEvents evs).imgbufL = s.imgbufL := rfl
@[simp] theorem State.imgbufH_afterEvents (s : State) (evs : List Event) : (s.afterEvents evs).imgbufH = s.imgbufH := rfl
@[simp] theorem State.fwver_afterEvents (s : State) (evs : List Event) : (s.afterEvents evs).fwver = s.fwver := rfl
@[simp] theorem State.lutver_afterEvents (s : State) (evs : List Event) : (s.afterEvents evs).lutver = s.lutver := rfl
@[simp] theorem State.rdbuf_afterEvents (s : State) (evs : List Event) : (s.afterEvents evs).rdbuf = s.rdbuf := rfl
@[simp] theorem State.lc_afterEvents (s : State) (evs : List Event) : (s.afterEvents evs).lc = s.lc := rfl
@[simp] theorem State.geomKnown_afterEvents (s : State) (evs : List Event) : (s.afterEvents evs).geomKnown = s.geomKnown := rfl
@[simp] theorem State.sticky_afterEvents (s : State) (evs : List Event) : (s.afterEvents evs).sticky = (if evs.any Event.isTimeout then s.sticky ||| stickyMask .warnTimeout else s.sticky) := rfl
@[simp] theorem State.seq_afterEvents (s : State) (evs : List Event) : (s.afterEvents evs).seq = s.seq := rfl
@[simp] theorem State.lat_afterEvents (s : State) (evs : List Event) : (s.afterEvents evs).lat = s.lat := rfl
@[simp] theorem State.selOut_afterEvents (s : State) (evs : List Event) : (s.afterEvents evs).selOut = selAfter s.selOut evs := rfl
@[simp] theorem State.rstOut_afterEvents (s : State) (evs : List Event) : (s.afterEvents evs).rstOut = rstAfter s.rstOut evs := rfl
@[simp] theorem State.fb_afterEvents (s : State) (evs : List Event) : (s.afterEvents evs).fb = s.fb := rfl
@[simp] theorem State.traceRev_afterEvents (s : State) (evs : List Event) : (s.afterEvents evs).traceRev = evs.reverse ++ s.traceRev := rfl
@[simp] theorem State.resetIn_afterEvents (s : State) (evs : List Event) : (s.afterEvents evs).resetIn = s.resetIn := rfl
@[simp] theorem State.fbEpoch_afterEvents (s : State) (evs : List Event) : (s.afterEvents evs).fbEpoch = s.fbEpoch := rfl
@[simp] theorem State.env_afterEvents (s : State) (evs : List Event) : (s.afterEvents evs).env = s.env := rfl
@[simp] theorem State.inbox_afterEvents (s : State) (evs : List Event) : (s.afterEvents evs).inbox = s.inbox := rfl
@[simp] theorem State.busReads_afterEvents (s : State) (evs : List Event) : (s.afterEvents evs).busReads = s.busReads := rfl
@[simp] theorem State.readDraws_afterEvents (s : State) (evs : List Event) : (s.afterEvents evs).readDraws = s.readDraws := rfl

/-! ## withSeq -/

@[simp] theorem State.cmd_withSeq (s : State) (q : Seq) : (s.withSeq q).cmd = s.cmd := rfl
@[simp] theorem State.reversed_withSeq (s : State) (q : Seq) : (s.withSeq q).reversed = s.reversed := rfl
@[simp] theorem State.rdata_withSeq (s : State) (q : Seq) : (s.withSeq q).rdata = s.rdata := rfl
@[simp] theorem State.args_withSeq (s : State) (q : Seq) : (s.withSeq q).args = s.args := rfl
@[simp] theorem State.panelW_withSeq (s : State) (q : Seq) : (s.withSeq q).panelW = s.panelW := rfl
@[simp] theorem State.panelH_withSeq (s : State) (q : Seq) : (s.withSeq q).panelH = s.panelH := rfl
@[simp] theorem State.imgbufL_withSeq (s : State) (q : Seq) : (s.withSeq q).imgbufL = s.imgbufL := rfl
@[simp] theorem State.imgbufH_withSeq (s : State) (q : Seq) : (s.withSeq q).imgbufH = s.imgbufH := rfl
@[simp] theorem State.fwver_withSeq (s : State) (q : Seq) : (s.withSeq q).fwver = s.fwver := rfl
@[simp] theorem State.lutver_withSeq (s : State) (q : Seq) : (s.withSeq q).lutver = s.lutver := rfl
@[simp] theorem State.rdbuf_withSeq (s : State) (q : Seq) : (s.withSeq q).rdbuf = s.rdbuf := rfl
@[simp] theorem State.lc_withSeq (s : State) (q : Seq) : (s.withSeq q).lc = s.lc := rfl
@[simp] theorem State.geomKnown_withSeq (s : State) (q : Seq) : (s.withSeq q).geomKnown = s.geomKnown := rfl
@[simp] theorem State.sticky_withSeq (s : State) (q : Seq) : (s.withSeq q).sticky = s.sticky := rfl
@[simp] theorem State.seq_withSeq (s : State) (q : Seq) : (s.withSeq q).seq = q := rfl
@[simp] theorem State.lat_withSeq (s : State) (q : Seq) : (s.withSeq q).lat = s.lat := rfl
@[simp] theorem State.selOut_withSeq (s : State) (q : Seq) : (s.withSeq q).selOut = s.selOut := rfl
@[simp] theorem State.rstOut_withSeq (s : State) (q : Seq) : (s.withSeq q).rstOut = s.rstOut := rfl
@[simp] theorem State.fb_withSeq (s : State) (q : Seq) : (s.withSeq q).fb = s.fb := rfl
@[simp] theorem State.traceRev_withSeq (s : State) (q : Seq) : (s.withSeq q).traceRev = s.traceRev := rfl
@[simp] theorem State.resetIn_withSeq (s : State) (q : Seq) : (s.withSeq q).resetIn = s.resetIn := rfl
@[simp] theorem State.fbEpoch_withSeq (s : State) (q : Seq) : (s.withSeq q).fbEpoch = s.fbEpoch := rfl
@[simp] theorem State.env_withSeq (s : State) (q : Seq) : (s.withSeq q).env = s.env := rfl
@[simp] theorem State.inbox_withSeq (s : State) (q : Seq) : (s.withSeq q).inbox = s.inbox := rfl
@[simp] theorem State.busReads_withSeq (s : State) (q : Seq) : (s.withSeq q).busReads = s.busReads := rfl
@[simp] theorem State.readDraws_withSeq (s : State) (q : Seq) : (s.withSeq q).readDraws = s.readDraws := rfl

/-! ## withInbox -/

@[simp] theorem State.cmd_withInbox (s : State) (ib : List HostStep) : (s.withInbox ib).cmd = s.cmd := rfl
@[simp] theorem State.reversed_withInbox (s : State) (ib : List HostStep) : (s.withInbox ib).reversed = s.reversed := rfl
@[simp] theorem State.rdata_withInbox (s : State) (ib : List HostStep) : (s.withInbox ib).rdata = s.rdata := rfl
@[simp] theorem State.args_withInbox (s : State) (ib : List HostStep) : (s.withInbox ib).args = s.args := rfl
@[simp] theorem State.panelW_withInbox (s : State) (ib : List HostStep) : (s.withInbox ib).panelW = s.panelW := rfl
@[simp] theorem State.panelH_withInbox (s : State) (ib : List HostStep) : (s.withInbox ib).panelH = s.panelH := rfl
@[simp] theorem State.imgbufL_withInbox (s : State) (ib : List HostStep) : (s.withInbox ib).imgbufL = s.imgbufL := rfl
@[simp] theorem State.imgbufH_withInbox (s : State) (ib : List HostStep) : (s.withInbox ib).imgbufH = s.imgbufH := rfl
@[simp] theorem State.fwver_withInbox (s : State) (ib : List HostStep) : (s.withInbox ib).fwver = s.fwver := rfl
@[simp] theorem State.lutver_withInbox (s : State) (ib : List HostStep) : (s.withInbox ib).lutver = s.lutver := rfl
@[simp] theorem State.rdbuf_withInbox (s : State) (ib : List HostStep) : (s.withInbox ib).rdbuf = s.rdbuf := rfl
@[simp] theorem State.lc_withInbox (s : State) (ib : List HostStep) : (s.withInbox ib).lc = s.lc := rfl
@[simp] theorem State.geomKnown_withInbox (s : State) (ib : List HostStep) : (s.withInbox ib).geomKnown = s.geomKnown := rfl
@[simp] theorem State.sticky_withInbox (s : State) (ib : List HostStep) : (s.withInbox ib).sticky = s.sticky := rfl
@[simp] theorem State.seq_withInbox (s : State) (ib : List HostStep) : (s.withInbox ib).seq = s.seq := rfl
@[simp] theorem State.lat_withInbox (s : State) (ib : List HostStep) : (s.withInbox ib).lat = s.lat := rfl
@[simp] theorem State.selOut_withInbox (s : State) (ib : List HostStep) : (s.withInbox ib).selOut = s.selOut := rfl
@[simp] theorem State.rstOut_withInbox (s : State) (ib : List HostStep) : (s.withInbox ib).rstOut = s.rstOut := rfl
@[simp] theorem State.fb_withInbox (s : State) (ib : List HostStep) : (s.withInbox ib).fb = s.fb := rfl
@[simp] theorem State.traceRev_withInbox (s : State) (ib : List HostStep) : (s.withInbox ib).traceRev = s.traceRev := rfl
@[simp] theorem State.resetIn_withInbox (s : State) (ib : List HostStep) : (s.withInbox ib).resetIn = s.resetIn := rfl
@[simp] theorem State.fbEpoch_withInbox (s : State) (ib : List HostStep) : (s.withInbox ib).fbEpoch = s.fbEpoch := rfl
@[simp] theorem State.env_withInbox (s : State) (ib : List HostStep) : (s.withInbox ib).env = s.env := rfl
@[simp] theorem State.inbox_withInbox (s : State) (ib : List HostStep) : (s.withInbox ib).inbox = ib := rfl
@[simp] theorem State.busReads_withInbox (s : State) (ib : List HostStep) : (s.withInbox ib).busReads = s.busReads := rfl
@[simp] theorem State.readDraws_withInbox (s : State) (ib : List HostStep) : (s.withInbox ib).readDraws = s.readDraws := rfl

/-! ## withCmd -/

@[simp] theorem State.cmd_withCmd (s : State) (w : Word) : (s.withCmd w).cmd = w := rfl
@[simp] theorem State.reversed_withCmd (s : State) (w : Word) : (s.withCmd w).reversed = s.reversed := rfl
@[simp] theorem State.rdata_withCmd (s : State) (w : Word) : (s.withCmd w).rdata = s.rdata := rfl
@[simp] theorem State.args_withCmd (s : State) (w : Word) : (s.withCmd w).args = s.args := rfl
@[simp] theorem State.panelW_withCmd (s : State) (w : Word) : (s.withCmd w).panelW = s.panelW := rfl
@[simp] theorem State.panelH_withCmd (s : State) (w : Word) : (s.withCmd w).panelH = s.panelH := rfl
@[simp] theorem State.imgbufL_withCmd (s : State) (w : Word) : (s.withCmd w).imgbufL = s.imgbufL := rfl
@[simp] theorem State.imgbufH_withCmd (s : State) (w : Word) : (s.withCmd w).imgbufH = s.imgbufH := rfl
@[simp] theorem State.fwver_withCmd (s : State) (w : Word) : (s.withCmd w).fwver = s.fwver := rfl
@[simp] theorem State.lutver_withCmd (s : State) (w : Word) : (s.withCmd w).lutver = s.lutver := rfl
@[simp] theorem State.rdbuf_withCmd (s : State) (w : Word) : (s.withCmd w).rdbuf = s.rdbuf := rfl
@[simp] theorem State.lc_withCmd (s : State) (w : Word) : (s.withCmd w).lc = s.lc := rfl
@[simp] theorem State.geomKnown_withCmd (s : State) (w : Word) : (s.withCmd w).geomKnown = s.geomKnown := rfl
@[simp] theorem State.sticky_withCmd (s : State) (w : Word) : (s.withCmd w).sticky = s.sticky := rfl
@[simp] theorem State.seq_withCmd (s : State) (w : Word) : (s.withCmd w).seq = s.seq := rfl
@[simp] theorem State.lat_withCmd (s : State) (w : Word) : (s.withCmd w).lat = s.lat := rfl
@[simp] theorem State.selOut_withCmd (s : State) (w : Word) : (s.withCmd w).selOut = s.selOut := rfl
@[simp] theorem State.rstOut_withCmd (s : State) (w : Word) : (s.withCmd w).rstOut = s.rstOut := rfl
@[simp] theorem State.fb_withCmd (s : State) (w : Word) : (s.withCmd w).fb = s.fb := rfl
@[simp] theorem State.traceRev_withCmd (s : State) (w : Word) : (s.withCmd w).traceRev = s.traceRev := rfl
@[simp] theorem State.resetIn_withCmd (s : State) (w : Word) : (s.withCmd w).resetIn = s.resetIn := rfl
@[simp] theorem State.fbEpoch_withCmd (s : State) (w : Word) : (s.withCmd w).fbEpoch = s.fbEpoch := rfl
@[simp] theorem State.env_withCmd (s : State) (w : Word) : (s.withCmd w).env = s.env := rfl
@[simp] theorem State.inbox_withCmd (s : State) (w : Word) : (s.withCmd w).inbox = s.inbox := rfl
@[simp] theorem State.busReads_withCmd (s : State) (w : Word) : (s.withCmd w).busReads = s.busReads := rfl
@[simp] theorem State.readDraws_withCmd (s : State) (w : Word) : (s.withCmd w).readDraws = s.readDraws := rfl

/-! ## latched -/

@[simp] theorem State.cmd_latched (s : State) (e : Env) : (s.latched e).cmd = s.cmd := rfl
@[simp] theorem State.reversed_latched (s : State) (e : Env) : (s.latched e).reversed = s.reversed := rfl
@[simp] theorem State.rdata_latched (s : State) (e : Env) : (s.latched e).rdata = s.rdata := rfl
@[simp] theorem State.args_latched (s : State) (e : Env) : (s.latched e).args = s.args := rfl
@[simp] theorem State.panelW_latched (s : State) (e : Env) : (s.latched e).panelW = s.panelW := rfl
@[simp] theorem State.panelH_latched (s : State) (e : Env) : (s.latched e).panelH = s.panelH := rfl
@[simp] theorem State.imgbufL_latched (s : State) (e : Env) : (s.latched e).imgbufL = s.imgbufL := rfl
@[simp] theorem State.imgbufH_latched (s : State) (e : Env) : (s.latched e).imgbufH = s.imgbufH := rfl
@[simp] theorem State.fwver_latched (s : State) (e : Env) : (s.latched e).fwver = s.fwver := rfl
@[simp] theorem State.lutver_latched (s : State) (e : Env) : (s.latched e).lutver = s.lutver := rfl
@[simp] theorem State.rdbuf_latched (s : State) (e : Env) : (s.latched e).rdbuf = s.rdbuf := rfl
@[simp] theorem State.lc_latched (s : State) (e : Env) : (s.latched e).lc = s.lc := rfl
@[simp] theorem State.geomKnown_latched (s : State) (e : Env) : (s.latched e).geomKnown = s.geomKnown := rfl
@[simp] theorem State.sticky_latched (s : State) (e : Env) : (s.latched e).sticky = s.sticky := rfl
@[simp] theorem State.seq_latched (s : State) (e : Env) : (s.latched e).seq = s.seq := rfl
@[simp] theorem State.lat_latched (s : State) (e : Env) : (s.latched e).lat = s.latchNow := rfl
@[simp] theorem State.selOut_latched (s : State) (e : Env) : (s.latched e).selOut = s.selOut := rfl
@[simp] theorem State.rstOut_latched (s : State) (e : Env) : (s.latched e).rstOut = s.rstOut := rfl
@[simp] theorem State.fb_latched (s : State) (e : Env) : (s.latched e).fb = s.fb := rfl
@[simp] theorem State.traceRev_latched (s : State) (e : Env) : (s.latched e).traceRev = s.traceRev := rfl
@[simp] theorem State.resetIn_latched (s : State) (e : Env) : (s.latched e).resetIn = s.resetIn := rfl
@[simp] theorem State.fbEpoch_latched (s : State) (e : Env) : (s.latched e).fbEpoch = s.fbEpoch := rfl
@[simp] theorem State.env_latched (s : State) (e : Env) : (s.latched e).env = e := rfl
@[simp] theorem State.inbox_latched (s : State) (e : Env) : (s.latched e).inbox = s.inbox := rfl
@[simp] theorem State.busReads_latched (s : State) (e : Env) : (s.latched e).busReads = s.busReads := rfl
@[simp] theorem State.readDraws_latched (s : State) (e : Env) : (s.latched e).readDraws = s.readDraws := rfl

/-! ## perform: what no micro-step touches -/

@[simp] theorem State.cmd_perform (s : State) (m : Micro) : (s.perform m).cmd = s.cmd := by
  cases m <;> first | rfl | (rename_i b; cases b <;> rfl)
@[simp] theorem State.reversed_perform (s : State) (m : Micro) : (s.perform m).reversed = s.reversed := by
  cases m <;> first | rfl | (rename_i b; cases b <;> rfl)
@[simp] theorem State.args_perform (s : State) (m : Micro) : (s.perform m).args = s.args := by
  cases m <;> first | rfl | (rename_i b; cases b <;> rfl)
@[simp] theorem State.seq_perform (s : State) (m : Micro) : (s.perform m).seq = s.seq := by
  cases m <;> first | rfl | (rename_i b; cases b <;> rfl)
@[simp] theorem State.lat_perform (s : State) (m : Micro) : (s.perform m).lat = s.lat := by
  cases m <;> first | rfl | (rename_i b; cases b <;> rfl)
@[simp] theorem State.resetIn_perform (s : State) (m : Micro) : (s.perform m).resetIn = s.resetIn := by
  cases m <;> first | rfl | (rename_i b; cases b <;> rfl)
@[simp] theorem State.fbEpoch_perform (s : State) (m : Micro) : (s.perform m).fbEpoch = s.fbEpoch := by
  cases m <;> first | rfl | (rename_i b; cases b <;> rfl)
@[simp] theorem State.env_perform (s : State) (m : Micro) : (s.perform m).env = s.env := by
  cases m <;> first | rfl | (rename_i b; cases b <;> rfl)
@[simp] theorem State.inbox_perform (s : State) (m : Micro) : (s.perform m).inbox = s.inbox := by
  cases m <;> first | rfl | (rename_i b; cases b <;> rfl)
@[simp] theorem State.busReads_perform (s : State) (m : Micro) : (s.perform m).busReads = s.busReads := by
  cases m <;> first | rfl | (rename_i b; cases b <;> rfl)
@[simp] theorem State.readDraws_perform (s : State) (m : Micro) : (s.perform m).readDraws = s.readDraws := by
  cases m <;> first | rfl | (rename_i b; cases b <;> rfl)

/-! ## TRACE -/

@[simp] theorem State.trace_emit (s : State) (e : Event) : (s.emit e).trace = s.trace ++ [e] := by
  simp [State.trace]

@[simp] theorem State.trace_setFlag (s : State) (c : Cause) : (s.setFlag c).trace = s.trace := rfl

@[simp] theorem State.trace_afterEvents (s : State) (evs : List Event) :
    (s.afterEvents evs).trace = s.trace ++ evs := by
  simp [State.trace]

/-! ## Sticky flags -/

/-- Setting one flag sets it and leaves every other as it was (10_state.md R36). -/
theorem State.flag_setFlag (s : State) (c d : Cause) :
    (s.setFlag c).flag d = (decide (c = d) || s.flag d) := by
  cases c <;> cases d <;> simp [State.flag, stickyMask, Cause.code]

/-- STATUS bits 15:8 are the sticky flags (10_state.md R36). -/
theorem State.statusWord_sticky (s : State) (k : Nat) (h : 8 ≤ k) :
    s.statusWord.getLsbD k = s.sticky.getLsbD (k - 8) := by
  simp only [State.statusWord, BitVec.getLsbD_append]
  rw [if_neg (by omega), if_neg (by omega), if_neg (by omega), if_neg (by omega), if_neg (by omega)]
  congr 1

@[simp] theorem State.flag_emit (s : State) (e : Event) (c : Cause) : (s.emit e).flag c = s.flag c := rfl

end Sys2Proof.Machine
end

