-- ==== Sys2Proof/Laws/Engine.lean ====
section
/-! SUPPORT. What the engine can do, said once: micro-steps one after another, the engine's turn, issuing an operation. -/

namespace Sys2Proof.Machine

/-- The effects of micro-steps in order, SEQ left alone. -/
def State.performAll (ms : List Micro) (s : State) : State := ms.foldl State.perform s

@[simp] theorem State.performAll_nil (s : State) : s.performAll [] = s := rfl

@[simp] theorem State.performAll_cons (s : State) (m : Micro) (ms : List Micro) :
    s.performAll (m :: ms) = (s.perform m).performAll ms := rfl

theorem State.performAll_append (s : State) (ms ns : List Micro) :
    s.performAll (ms ++ ns) = (s.performAll ms).performAll ns := by
  simp [State.performAll]

/-- A micro-step does not look at SEQ. -/
@[simp] theorem State.perform_withSeq (s : State) (m : Micro) (q : Seq) :
    (s.withSeq q).perform m = (s.perform m).withSeq q := by
  cases m <;> first | rfl | (rename_i b; cases b <;> rfl)

/-- A micro-step does not look at the latches or the environment. -/
theorem State.perform_latched (s : State) (m : Micro) (e : Env) :
    (s.latched e).perform m = (s.perform m).latched e := by
  cases m <;> first | rfl | (rename_i b; cases b <;> rfl)

/-- A micro-step does not look at the coming host steps. -/
@[simp] theorem State.perform_withInbox (s : State) (m : Micro) (ib : List HostStep) :
    (s.withInbox ib).perform m = (s.perform m).withInbox ib := by
  cases m <;> first | rfl | (rename_i b; cases b <;> rfl)

@[simp] theorem State.performAll_withSeq (s : State) (ms : List Micro) (q : Seq) :
    (s.withSeq q).performAll ms = (s.performAll ms).withSeq q := by
  induction ms generalizing s with
  | nil => rfl
  | cons m ms ih => simp [ih]

@[simp] theorem State.performAll_withInbox (s : State) (ms : List Micro) (ib : List HostStep) :
    (s.withInbox ib).performAll ms = (s.performAll ms).withInbox ib := by
  induction ms generalizing s with
  | nil => rfl
  | cons m ms ih => simp [ih]

theorem State.performAll_latched (s : State) (ms : List Micro) (e : Env) :
    (s.latched e).performAll ms = (s.performAll ms).latched e := by
  induction ms generalizing s with
  | nil => rfl
  | cons m ms ih => simp [ih, State.perform_latched]

@[simp] theorem State.withSeq_withSeq (s : State) (q r : Seq) : (s.withSeq q).withSeq r = s.withSeq r := rfl

theorem State.withSeq_self (s : State) (q : Seq) (h : s.seq = q) : s.withSeq q = s := by
  subst h
  rfl

theorem State.withInbox_self (s : State) (ib : List HostStep) (h : s.inbox = ib) : s.withInbox ib = s := by
  subst h
  rfl

@[simp] theorem State.seq_performAll (s : State) (ms : List Micro) : (s.performAll ms).seq = s.seq := by
  induction ms generalizing s with
  | nil => rfl
  | cons m ms ih => simp [ih]

@[simp] theorem State.inbox_performAll (s : State) (ms : List Micro) : (s.performAll ms).inbox = s.inbox := by
  induction ms generalizing s with
  | nil => rfl
  | cons m ms ih => simp [ih]

@[simp] theorem State.args_performAll (s : State) (ms : List Micro) : (s.performAll ms).args = s.args := by
  induction ms generalizing s with
  | nil => rfl
  | cons m ms ih => simp [ih]

@[simp] theorem State.reversed_performAll (s : State) (ms : List Micro) :
    (s.performAll ms).reversed = s.reversed := by
  induction ms generalizing s with
  | nil => rfl
  | cons m ms ih => simp [ih]

@[simp] theorem State.cmd_performAll (s : State) (ms : List Micro) : (s.performAll ms).cmd = s.cmd := by
  induction ms generalizing s with
  | nil => rfl
  | cons m ms ih => simp [ih]

@[simp] theorem Seq.left_idle : Seq.idle.left = 0 := rfl

@[simp] theorem Seq.left_seqAt (op : Instr) (pos : Nat) (ms : List Micro) : (seqAt op pos ms).left = ms.length := by
  cases ms <;> rfl

theorem State.microStep_seqAt (s : State) (op : Instr) (pos : Nat) (m : Micro) (ms : List Micro) :
    (s.withSeq (seqAt op pos (m :: ms))).microStep = (s.perform m).withSeq (seqAt op (pos + 1) ms) := by
  show ((s.withSeq (seqAt op pos (m :: ms))).perform m).withSeq (seqAt op (pos + 1) ms) = _
  simp

theorem State.microSteps_idle (s : State) (n : Nat) (h : s.seq = .idle) : State.microSteps n s = s := by
  induction n with
  | zero => rfl
  | succ n ih =>
    have : s.microStep = s := by simp [State.microStep, h]
    rw [State.microSteps, this, ih]

/-- `n` engine steps perform the first `n` micro-steps left and move SEQ on by as many. -/
theorem State.microSteps_seqAt (n : Nat) (s : State) (op : Instr) (pos : Nat) (ms : List Micro) (hn : n ≤ ms.length) :
    State.microSteps n (s.withSeq (seqAt op pos ms))
      = (s.performAll (ms.take n)).withSeq (seqAt op (pos + n) (ms.drop n)) := by
  induction n generalizing s pos ms with
  | zero => simp [State.microSteps]
  | succ n ih =>
    cases ms with
    | nil => simp at hn
    | cons m ms =>
      rw [State.microSteps, State.microStep_seqAt, ih _ _ _ (by simpa using hn)]
      simp [Nat.add_comm, Nat.add_left_comm]

/-- Run to its end, an operation has performed all its micro-steps and the engine is idle. -/
theorem State.microSteps_all (s : State) (op : Instr) (pos : Nat) (ms : List Micro) :
    State.microSteps ms.length (s.withSeq (seqAt op pos ms)) = (s.performAll ms).withSeq .idle := by
  rw [State.microSteps_seqAt _ _ _ _ _ (le_refl _)]
  simp [seqAt]

/-- The engine's turn when no host step is coming. -/
theorem State.engineTurn_nil (s : State) (h : s.inbox = []) : s.engineTurn = State.microSteps s.seq.left s := by
  simp [State.engineTurn, h]

/-- The engine's turn when a host step is coming. -/
theorem State.engineTurn_cons (s : State) (h : HostStep) (rest : List HostStep) (hb : s.inbox = h :: rest) :
    s.engineTurn = (State.microSteps (h.lead s.seq.left) s).withInbox ({ h with after := some 0 } :: rest) := by
  simp [State.engineTurn, hb]

/-- How far the engine gets in its turn, for an operation of `ms` micro-steps. -/
def State.turnLength (s : State) (ms : List Micro) : Nat :=
  match s.inbox with
  | [] => ms.length
  | h :: _ => h.lead ms.length

theorem HostStep.lead_le (h : HostStep) (n : Nat) : h.lead n ≤ n := by
  unfold HostStep.lead
  split
  · exact le_refl _
  · exact Nat.min_le_right _ _

theorem State.turnLength_le (s : State) (ms : List Micro) : s.turnLength ms ≤ ms.length := by
  unfold State.turnLength
  split
  · exact le_refl _
  · exact HostStep.lead_le _ _

/-- The inbox after the engine's turn: its head, if any, is due. -/
def dueInbox : List HostStep → List HostStep
  | [] => []
  | h :: rest => { h with after := some 0 } :: rest

theorem inbox_cases (s : State) : s.inbox = [] ∨ ∃ h rest, s.inbox = h :: rest := by
  cases s.inbox with
  | nil => exact .inl rfl
  | cons h rest => exact .inr ⟨h, rest, rfl⟩

/-- The engine's turn, once and for all: it performs a first part of the micro-steps left, all of them if no host step is
coming. -/
theorem State.engineTurn_seqAt (s : State) (op : Instr) (pos : Nat) (ms : List Micro) :
    (s.withSeq (seqAt op pos ms)).engineTurn
      = ((s.performAll (ms.take (s.turnLength ms))).withSeq
          (seqAt op (pos + s.turnLength ms) (ms.drop (s.turnLength ms)))).withInbox (dueInbox s.inbox) := by
  have hl : (s.withSeq (seqAt op pos ms)).seq.left = ms.length := Seq.left_seqAt op pos ms
  rcases inbox_cases s with hb | ⟨h, rest, hb⟩
  · have ht : s.turnLength ms = ms.length := by simp [State.turnLength, hb]
    rw [State.engineTurn_nil (s.withSeq (seqAt op pos ms)) hb, hl, State.microSteps_seqAt _ _ _ _ _ (le_refl _), ht,
      State.withInbox_self _ _ (by simp [State.withSeq, hb, dueInbox])]
  · have ht : s.turnLength ms = h.lead ms.length := by simp [State.turnLength, hb]
    rw [State.engineTurn_cons (s.withSeq (seqAt op pos ms)) h rest hb, hl, State.microSteps_seqAt _ _ _ _ _ (HostStep.lead_le _ _),
      ht, hb]
    rfl

/-- The engine's turn of an idle engine: nothing but the head of the inbox becoming due. -/
theorem State.engineTurn_idle (s : State) (h : s.seq = .idle) : s.engineTurn = s.withInbox (dueInbox s.inbox) := by
  rcases inbox_cases s with hb | ⟨g, rest, hb⟩
  · rw [State.engineTurn_nil _ hb, State.microSteps_idle _ _ h, State.withInbox_self _ _ (by simp [hb, dueInbox])]
  · rw [State.engineTurn_cons _ g rest hb, State.microSteps_idle _ _ h, hb]
    rfl

/-- Starting an operation: a first part of its micro-steps is performed, all of them if no host step is coming. -/
theorem State.launch_eq (s : State) (op : Instr) (script : Script) :
    s.launch op script
      = ((((s.performAll ((script s.env).1.take (s.turnLength (script s.env).1))).latched (script s.env).2).withSeq
          (seqAt op (s.turnLength (script s.env).1) ((script s.env).1.drop (s.turnLength (script s.env).1)))).withInbox
          (dueInbox s.inbox)) := by
  have h1 := State.engineTurn_seqAt (s.latched (script s.env).2) op 0 (script s.env).1
  rw [State.performAll_latched, Nat.zero_add] at h1
  exact h1

/-- An operation started when no host step is coming runs to its end. -/
theorem State.launch_quiet (s : State) (op : Instr) (script : Script) (h : s.inbox = []) :
    s.launch op script = ((s.performAll (script s.env).1).latched (script s.env).2).withSeq .idle := by
  have ht : s.turnLength (script s.env).1 = (script s.env).1.length := by simp [State.turnLength, h]
  rw [State.launch_eq, ht, List.take_length, List.drop_length,
    State.withInbox_self _ _ (by simp [State.withSeq, State.latched, h, dueInbox])]
  rfl

theorem State.busy_of_idle {s : State} (h : s.seq = .idle) : s.busy = false := by simp [State.busy, h]

theorem State.idle_of_not_busy {s : State} (h : s.busy = false) : s.seq = .idle := by simpa [State.busy] using h

/-- Everything issuing an operation can do (60_exceptions.md R304): drop it, refuse it at the gate, stop it on its own
check, or start it. -/
theorem State.operate_cases (s : State) (op : Instr) (body : Latches → Except Stop Script) :
    (s.busy = true ∧ s.operate op body = .next (s.setFlag .errOverrun)) ∨
    (s.busy = false ∧ gateAllows op s.lc = false ∧ s.operate op body = .next (s.setFlag .errState)) ∨
    (s.busy = false ∧ gateAllows op s.lc = true ∧
      ((∃ c, body s.latchNow = .error (.reject c) ∧ s.operate op body = .next (s.setFlag c)) ∨
       (∃ f, body s.latchNow = .error (.fault f) ∧ s.operate op body = .fault f) ∨
       (∃ script, body s.latchNow = .ok script ∧ s.operate op body = .next (s.launch op script)))) := by
  unfold State.operate
  by_cases hb : s.busy = true
  · exact .inl ⟨hb, by simp [hb, State.raise]⟩
  · simp only [Bool.not_eq_true] at hb
    by_cases hg : gateAllows op s.lc = true
    · refine .inr (.inr ⟨hb, hg, ?_⟩)
      cases hs : body s.latchNow with
      | error e =>
        cases e with
        | reject c => exact .inl ⟨c, rfl, by simp [hb, hg, State.raise]⟩
        | fault f => exact .inr (.inl ⟨f, rfl, by simp [hb, hg]⟩)
      | ok script => exact .inr (.inr ⟨script, rfl, by simp [hb, hg]⟩)
    · simp only [Bool.not_eq_true] at hg
      exact .inr (.inl ⟨hb, hg, by simp [hb, hg, State.raise]⟩)

/-- An operation the gate does not allow. -/
theorem State.operate_gate {s : State} {op : Instr} {body : Latches → Except Stop Script}
    (hs : s.seq = .idle) (hg : gateAllows op s.lc = false) : s.operate op body = .next (s.setFlag .errState) := by
  simp [State.operate, State.busy_of_idle hs, hg, State.raise]

/-- An operation that rejects its operands. -/
theorem State.operate_reject {s : State} {op : Instr} {body : Latches → Except Stop Script} {c : Cause}
    (hs : s.seq = .idle) (hg : gateAllows op s.lc = true) (hb : body s.latchNow = .error (.reject c)) :
    s.operate op body = .next (s.setFlag c) := by
  simp [State.operate, State.busy_of_idle hs, hg, hb, State.raise]

/-- An accepted operation on a quiet block: all its micro-steps are performed. -/
theorem State.operate_quiet {s : State} {op : Instr} {body : Latches → Except Stop Script} {script : Script}
    (hq : s.quiet) (hg : gateAllows op s.lc = true) (hb : body s.latchNow = .ok script) :
    s.operate op body = .next (((s.performAll (script s.env).1).latched (script s.env).2).withSeq .idle) := by
  simp [State.operate, State.busy_of_idle hq.1, hg, hb, State.launch_quiet s op script hq.2]

end Sys2Proof.Machine
end

