-- ==== Sys2Proof/Laws/Wire.lean ====
section
/-! SUPPORT. What scripts put on the wire: the events of micro-steps, the shape of each frame and of the shared procedures,
and the words a script receives. -/

namespace Sys2Proof.Machine

theorem eventsOf_append (ms ns : List Micro) : eventsOf (ms ++ ns) = eventsOf ms ++ eventsOf ns := by
  simp [eventsOf]

theorem received_append (ms ns : List Micro) : received (ms ++ ns) = received ms ++ received ns := by
  induction ms with
  | nil => rfl
  | cons m ms ih => cases m <;> simp [received, ih]

/-! ## afterEvents -/

@[simp] theorem State.afterEvents_nil (s : State) : s.afterEvents [] = s := rfl

theorem stickyMask_absorb (x : BitVec 8) (c : Cause) : x ||| stickyMask c ||| stickyMask c = x ||| stickyMask c := by
  rw [BitVec.or_assoc, BitVec.or_self]

theorem State.afterEvents_append (s : State) (a b : List Event) :
    (s.afterEvents a).afterEvents b = s.afterEvents (a ++ b) := by
  simp only [State.afterEvents, selAfter, rstAfter, List.foldl_append, List.reverse_append, List.append_assoc,
    List.any_append]
  congr 1
  cases a.any Event.isTimeout <;> cases b.any Event.isTimeout <;> simp [stickyMask_absorb]

theorem State.perform_event {s : State} {m : Micro} {e : Event} (h : m.event = some e) :
    s.perform m = s.afterEvents [e] := by
  cases m <;> simp only [Micro.event, Option.some.injEq, reduceCtorEq] at h
  case waitReady b => subst h; cases b <;> rfl
  all_goals subst h; rfl

/-- Wire micro-steps change what their events change, and nothing else. -/
theorem State.performAll_events {s : State} {ms : List Micro} (h : ∀ m ∈ ms, m.event.isSome = true) :
    s.performAll ms = s.afterEvents (eventsOf ms) := by
  induction ms generalizing s with
  | nil => rfl
  | cons m ms ih =>
    obtain ⟨e, he⟩ := Option.isSome_iff_exists.1 (h m (List.mem_cons_self ..))
    rw [State.performAll_cons, State.perform_event he, ih fun n hn => h n (List.mem_cons_of_mem _ hn),
      State.afterEvents_append]
    simp [eventsOf, he]

/-! ## Frames as events -/

/-- How many words a list of primitives receives. -/
def rxCount (ps : List Prim) : Nat := ps.countP (fun p => decide (p = .rx))

/-- The events of primitives whose waits end ready and which receive the words given. -/
def primEvents : List Prim → List Word → List Event
  | [], _ => []
  | .rx :: ps, d :: ds => .rx d :: primEvents ps ds
  | .rx :: ps, [] => primEvents ps []
  | .sel l :: ps, ds => .sel l :: primEvents ps ds
  | .tx w :: ps, ds => .tx w :: primEvents ps ds
  | .waitReady :: ps, ds => .ready :: primEvents ps ds
  | .rst l :: ps, ds => .rst l :: primEvents ps ds
  | .delay ms :: ps, ds => .delay ms :: primEvents ps ds

theorem primEvents_append (ps qs : List Prim) (ds es : List Word) (h : ds.length = rxCount ps) :
    primEvents (ps ++ qs) (ds ++ es) = primEvents ps ds ++ primEvents qs es := by
  induction ps generalizing ds with
  | nil =>
    have : ds = [] := by simpa [rxCount] using h
    subst this
    rfl
  | cons p ps ih =>
    cases p with
    | rx =>
      cases ds with
      | nil => simp [rxCount] at h
      | cons d ds =>
        have h' : ds.length = rxCount ps := by simpa [rxCount] using h
        simp [primEvents, ih ds h']
    | sel l => simp [primEvents, ih ds (by simpa [rxCount] using h)]
    | tx w => simp [primEvents, ih ds (by simpa [rxCount] using h)]
    | waitReady => simp [primEvents, ih ds (by simpa [rxCount] using h)]
    | rst l => simp [primEvents, ih ds (by simpa [rxCount] using h)]
    | delay ms => simp [primEvents, ih ds (by simpa [rxCount] using h)]

theorem primEvents_append_nil (ps qs : List Prim) (h : rxCount ps = 0) :
    primEvents (ps ++ qs) [] = primEvents ps [] ++ primEvents qs [] := by
  simpa using primEvents_append ps qs [] [] (by simp [h])

@[simp] theorem rxCount_append (ps qs : List Prim) : rxCount (ps ++ qs) = rxCount ps + rxCount qs := by
  simp [rxCount]

@[simp] theorem rxCount_commandFrame (c : Word) : rxCount (commandFrame c) = 0 := by simp [rxCount, commandFrame]
@[simp] theorem rxCount_writeFrame (d : Word) : rxCount (writeFrame d) = 0 := by simp [rxCount, writeFrame]
@[simp] theorem rxCount_flatMap_writeFrame (ds : List Word) : rxCount (ds.flatMap writeFrame) = 0 := by
  induction ds with
  | nil => rfl
  | cons d ds ih => simp [ih]
@[simp] theorem rxCount_argsFrames (c : Word) (args : List Word) : rxCount (argsFrames c args) = 0 := by
  simp [argsFrames]
@[simp] theorem rxCount_writeRegisterFrames (a v : Word) : rxCount (writeRegisterFrames a v) = 0 := by
  simp [writeRegisterFrames]
@[simp] theorem rxCount_targetAddrFrames (a : BitVec 32) : rxCount (targetAddrFrames a) = 0 := by
  simp [targetAddrFrames]
@[simp] theorem rxCount_bulkReadFrame (n : Nat) : rxCount (bulkReadFrame false n) = n := by
  simp [bulkReadFrame, dataPhase, rxCount, List.countP_replicate]
@[simp] theorem rxCount_readRegisterFrames (a : Word) : rxCount (readRegisterFrames a) = 1 := by
  simp [readRegisterFrames, readFrame]
theorem rxCount_map_tx (ws : List Word) : rxCount (ws.map .tx) = 0 := by
  induction ws with
  | nil => rfl
  | cons w ws ih => simp [rxCount]
@[simp] theorem rxCount_streamFrame (ws : List Word) : rxCount (streamFrame false ws) = 0 := by
  have := rxCount_map_tx ws
  simp only [streamFrame, dataPhase, rxCount_append, Bool.false_eq_true, if_false, this]
  rfl

theorem primEvents_commandFrame (c : Word) : primEvents (commandFrame c) [] = traceCMD c := rfl
theorem primEvents_writeFrame (d : Word) : primEvents (writeFrame d) [] = traceWR d := rfl
theorem primEvents_flatMap_writeFrame (ds : List Word) :
    primEvents (ds.flatMap writeFrame) [] = ds.flatMap traceWR := by
  induction ds with
  | nil => rfl
  | cons d ds ih =>
    rw [List.flatMap_cons, primEvents_append_nil _ _ (by simp), ih, primEvents_writeFrame, List.flatMap_cons]
theorem primEvents_argsFrames (c : Word) (args : List Word) :
    primEvents (argsFrames c args) [] = traceARGS c args := by
  rw [argsFrames, primEvents_append_nil _ _ (by simp), primEvents_commandFrame, primEvents_flatMap_writeFrame, traceARGS]
theorem primEvents_writeRegisterFrames (a v : Word) :
    primEvents (writeRegisterFrames a v) [] = traceREG a v := rfl
theorem primEvents_targetAddrFrames (a : BitVec 32) :
    primEvents (targetAddrFrames a) [] = traceREG 0x020A (highHalf a) ++ traceREG 0x0208 (lowHalf a) := rfl
theorem primEvents_bulkReadFrame (ds : List Word) :
    primEvents (bulkReadFrame false ds.length) ds = traceRDS ds := by
  have h : ∀ ds : List Word, primEvents (List.replicate ds.length .rx ++ [.sel .inactive]) ds
      = ds.map .rx ++ [.sel .inactive] := by
    intro ds
    induction ds with
    | nil => rfl
    | cons d ds ih => simp [List.replicate_succ, primEvents, ih]
  simp only [bulkReadFrame, dataPhase, Bool.false_eq_true, if_false, List.append_assoc]
  show _ :: _ :: _ :: _ :: _ :: _ :: primEvents (List.replicate ds.length .rx ++ [.sel .inactive]) ds = _
  rw [h]
  rfl
theorem primEvents_readRegisterFrames (a d : Word) :
    primEvents (readRegisterFrames a) [d] = traceCMD 0x0010 ++ traceWR a ++ traceRD d := rfl
theorem primEvents_streamFrame (ws : List Word) : primEvents (streamFrame false ws) [] = traceStream ws := by
  have h : primEvents (ws.map .tx ++ [.sel .inactive]) [] = ws.map .tx ++ [.sel .inactive] := by
    induction ws with
    | nil => rfl
    | cons w ws ih => simp [primEvents, ih]
  simp only [streamFrame, dataPhase, Bool.false_eq_true, if_false, List.append_assoc]
  show _ :: _ :: _ :: _ :: primEvents (ws.map .tx ++ [.sel .inactive]) [] = _
  rw [h]
  rfl

/-! ## The script of a list of primitives -/

theorem wire_isWire (ps : List Prim) (e : Env) : ∀ m ∈ (wire ps e).1, m.event.isSome = true := by
  induction ps generalizing e with
  | nil => simp [wire]
  | cons p ps ih =>
    intro m hm
    cases p <;> simp only [wire, List.mem_cons] at hm <;> rcases hm with rfl | hm <;>
      first | rfl | exact ih _ m hm

theorem wire_append (ps qs : List Prim) (e : Env) :
    wire (ps ++ qs) e = ((wire ps e).1 ++ (wire qs (wire ps e).2).1, (wire qs (wire ps e).2).2) := by
  induction ps generalizing e with
  | nil => rfl
  | cons p ps ih => cases p <;> simp [wire, ih]

theorem wire_events (ps : List Prim) (e : Env) :
    (eventsOf (wire ps e).1).map Event.untimed = primEvents ps (received (wire ps e).1) := by
  induction ps generalizing e with
  | nil => rfl
  | cons p ps ih =>
    cases p <;> simp only [wire, received, primEvents, eventsOf, List.filterMap_cons, Micro.event, List.map_cons] <;>
      simp only [← ih, eventsOf]
    case waitReady => cases (e.drawWait).1 <;> rfl
    all_goals rfl

/-! ## The words a script receives -/

@[simp] theorem Env.drawRx_drawWait (e : Env) : (e.drawWait.2).drawRx.1 = e.drawRx.1 := by
  unfold Env.drawWait Env.drawRx
  cases e.waits <;> cases e.rx <;> rfl

theorem Env.coming_congr {n : Nat} {e f : Env} (h1 : e.rx = f.rx) (h2 : e.rxDraws = f.rxDraws) :
    Env.coming n e = Env.coming n f := by
  induction n generalizing e f with
  | zero => rfl
  | succ n ih =>
    have h : e.drawRx.1 = f.drawRx.1 ∧ e.drawRx.2.rx = f.drawRx.2.rx ∧ e.drawRx.2.rxDraws = f.drawRx.2.rxDraws := by
      unfold Env.drawRx
      rw [← h1]
      cases e.rx <;> simp [h2]
    simp only [Env.coming]
    rw [h.1, ih h.2.1 h.2.2]

theorem Env.drawWait_rx (e : Env) : e.drawWait.2.rx = e.rx ∧ e.drawWait.2.rxDraws = e.rxDraws := by
  unfold Env.drawWait
  cases e.waits <;> exact ⟨rfl, rfl⟩

theorem Env.drawPoll_rx (e : Env) (w : Nat) : (e.drawPoll w).2.rx = e.rx ∧ (e.drawPoll w).2.rxDraws = e.rxDraws := by
  unfold Env.drawPoll
  cases e.polls <;> exact ⟨rfl, rfl⟩

@[simp] theorem Env.length_coming (n : Nat) (e : Env) : (Env.coming n e).length = n := by
  induction n generalizing e with
  | zero => rfl
  | succ n ih => simp [Env.coming, ih]

/-- A list of primitives receives the next words the controller drives, one per `Rx`. -/
theorem wire_received (ps : List Prim) (e : Env) : received (wire ps e).1 = Env.coming (rxCount ps) e := by
  induction ps generalizing e with
  | nil => rfl
  | cons p ps ih =>
    cases p <;> simp only [wire, received, ih] <;>
      simp only [rxCount, List.countP_cons, reduceCtorEq, decide_false, decide_true, Bool.false_eq_true, if_false,
        if_true, Nat.add_zero]
    case waitReady => exact Env.coming_congr (Env.drawWait_rx e).1 (Env.drawWait_rx e).2
    case rx => rfl

theorem wire_received_nil {ps : List Prim} (h : rxCount ps = 0) (e : Env) : received (wire ps e).1 = [] := by
  rw [wire_received, h]
  rfl

/-! ## Scripts made of wire events only -/

/-- Every micro-step of the script is a wire event, and its events, waits taken as ready, satisfy `P`. -/
def Sends (sc : Script) (P : List Event → Prop) : Prop :=
  ∀ e, (∀ m ∈ (sc e).1, m.event.isSome = true) ∧ P ((eventsOf (sc e).1).map Event.untimed)

theorem Sends.mono {sc : Script} {P Q : List Event → Prop} (h : Sends sc P) (hpq : ∀ t, P t → Q t) : Sends sc Q :=
  fun e => ⟨(h e).1, hpq _ (h e).2⟩

theorem sends_wire {ps : List Prim} (h : rxCount ps = 0) : Sends (wire ps) (fun t => t = primEvents ps []) := by
  intro e
  refine ⟨wire_isWire ps e, ?_⟩
  rw [wire_events, wire_received_nil h]

theorem sends_updates_nil : Sends (updates []) (fun t => t = []) := fun _ => ⟨by simp [updates], rfl⟩

theorem Sends.andThen {p q : Script} {P Q : List Event → Prop} (hp : Sends p P) (hq : Sends q Q) :
    Sends (andThen p q) (fun t => ∃ a b, P a ∧ Q b ∧ t = a ++ b) := by
  intro e
  refine ⟨fun m hm => ?_, _, _, (hp e).2, (hq (p e).2).2, ?_⟩
  · rcases List.mem_append.1 hm with hm | hm
    · exact (hp e).1 m hm
    · exact (hq (p e).2).1 m hm
  · simp [Machine.andThen, eventsOf_append]

/-! ## The busy-register poll -/

theorem wire_readRegister_received (a : Word) (e : Env) :
    received (wire (readRegisterFrames a) e).1 = [e.drawRx.1] := by
  rw [wire_received, rxCount_readRegisterFrames]
  rfl

theorem wire_readRegister_events (a : Word) (e : Env) :
    (eventsOf (wire (readRegisterFrames a) e).1).map Event.untimed
      = traceCMD 0x0010 ++ traceWR a ++ traceRD e.drawRx.1 := by
  rw [wire_events, wire_readRegister_received]
  exact primEvents_readRegisterFrames a _

/-- One read of the busy register. -/
def pollRead : Script := wire (readRegisterFrames Config.A_LUTAFSR)

theorem pollRead_events (e : Env) :
    (eventsOf (pollRead e).1).map Event.untimed = tracePOLL e.drawRx.1 := wire_readRegister_events _ e

theorem pollReadsUpTo_zero (e : Env) :
    pollReadsUpTo 0 e
      = if e.drawRx.1 = 0 then pollRead e else ((pollRead e).1 ++ [.pollTimeout], (pollRead e).2) := by
  have hl : [e.drawRx.1].getLastD 0 = e.drawRx.1 := rfl
  simp only [pollReadsUpTo, thenReceived, wire_readRegister_received, hl]
  by_cases h : e.drawRx.1 = 0
  · simp only [if_pos h, updates, List.append_nil]
    rfl
  · simp only [if_neg h]
    rfl

theorem pollReadsUpTo_succ (n : Nat) (e : Env) :
    pollReadsUpTo (n + 1) e
      = if e.drawRx.1 = 0 then pollRead e
        else ((pollRead e).1 ++ (pollReadsUpTo n (pollRead e).2).1, (pollReadsUpTo n (pollRead e).2).2) := by
  have hl : [e.drawRx.1].getLastD 0 = e.drawRx.1 := rfl
  simp only [pollReadsUpTo, thenReceived, wire_readRegister_received, hl]
  by_cases h : e.drawRx.1 = 0
  · simp only [if_pos h, updates, List.append_nil]
    rfl
  · simp only [if_neg h]
    rfl

theorem isPollTrace_zero : isPollTrace (tracePOLL 0) := ⟨[], 0, by simp, .inl ⟨rfl, by simp⟩⟩

theorem isPollTrace_timeout {v : Word} (h : v ≠ 0) : isPollTrace (tracePOLL v ++ [.pollTimeout]) :=
  ⟨[], v, by simp, .inr ⟨h, by simp⟩⟩

theorem isPollTrace_cons {v : Word} {t : List Event} (h : v ≠ 0) (ht : isPollTrace t) :
    isPollTrace (tracePOLL v ++ t) := by
  obtain ⟨vs, u, hvs, ht⟩ := ht
  refine ⟨v :: vs, u, ?_, ?_⟩
  · intro w hw
    rcases List.mem_cons.1 hw with rfl | hw
    · exact h
    · exact hvs w hw
  · rcases ht with ⟨hu, rfl⟩ | ⟨hu, rfl⟩
    · exact .inl ⟨hu, by simp⟩
    · exact .inr ⟨hu, by simp⟩

theorem pollReadsUpTo_sends (n : Nat) : Sends (pollReadsUpTo n) isPollTrace := by
  have hw : ∀ e, ∀ m ∈ (pollRead e).1, m.event.isSome = true := fun e => wire_isWire _ e
  induction n with
  | zero =>
    intro e
    rw [pollReadsUpTo_zero]
    by_cases h : e.drawRx.1 = 0
    · rw [if_pos h, pollRead_events, h]
      exact ⟨hw e, isPollTrace_zero⟩
    · rw [if_neg h, eventsOf_append, List.map_append, pollRead_events]
      refine ⟨fun m hm => ?_, isPollTrace_timeout h⟩
      rcases List.mem_append.1 hm with hm | hm
      · exact hw e m hm
      · rw [List.mem_singleton.1 hm]
        rfl
  | succ n ih =>
    intro e
    rw [pollReadsUpTo_succ]
    by_cases h : e.drawRx.1 = 0
    · rw [if_pos h, pollRead_events, h]
      exact ⟨hw e, isPollTrace_zero⟩
    · rw [if_neg h, eventsOf_append, List.map_append, pollRead_events]
      refine ⟨fun m hm => ?_, isPollTrace_cons h (ih _).2⟩
      rcases List.mem_append.1 hm with hm | hm
      · exact hw e m hm
      · exact (ih _).1 m hm

/-- A busy-register poll sends the trace of a poll, whatever the controller answers (41_handshake.md R159). -/
theorem pollBusyRegister_sends (t : Word) : Sends (pollBusyRegister t) isPollTrace :=
  fun e => pollReadsUpTo_sends (e.drawPoll (pollWindow t)).1 (e.drawPoll (pollWindow t)).2

/-! ## Area load, update, clear -/

theorem areaLoad_sends (img : BitVec 32) (x y w h : Word) (pixels : List Word) :
    Sends (areaLoad img x y w h pixels) (isAreaLoadTrace (highHalf img) (lowHalf img) x y w h pixels) := by
  refine ((pollBusyRegister_sends 0).andThen (sends_wire (by simp [Config.P_WAIT_EACH_STREAM_WORD]))).mono ?_
  rintro t ⟨a, b, ha, hb, rfl⟩
  refine ⟨a, ha, ?_⟩
  rw [hb, primEvents_append_nil _ _ (by simp [Config.P_WAIT_EACH_STREAM_WORD]),
    primEvents_append_nil _ _ (by simp), primEvents_append_nil _ _ (by simp), primEvents_targetAddrFrames,
    primEvents_argsFrames, primEvents_commandFrame]
  simp only [Config.P_WAIT_EACH_STREAM_WORD, primEvents_streamFrame, List.append_assoc]
  rfl

theorem updateArea_sends (pw ph : Word) (img : BitVec 32) (x y w h mode : Word) :
    Sends (updateArea pw ph img x y w h mode)
      (isUpdateTrace (highHalf img) (lowHalf img) x y (clipExtent x w pw) (clipExtent y h ph) mode) := by
  refine ((pollBusyRegister_sends 0).andThen (sends_wire (by simp))).mono ?_
  rintro t ⟨a, b, ha, hb, rfl⟩
  exact ⟨a, ha, by rw [hb, primEvents_argsFrames]; rfl⟩

theorem clearPanel_sends (pw ph : Word) (img : BitVec 32) (rev init : Bool) :
    Sends (clearPanel pw ph img rev init) (fun t => ∃ a u,
      isAreaLoadTrace (highHalf img) (lowHalf img) 0 0 pw ph
        (List.replicate (areaWords pw ph) (encodeWord 0 0 rev)) a ∧
      (if init then isUpdateTrace (highHalf img) (lowHalf img) 0 0 (clipExtent 0 pw pw) (clipExtent 0 ph ph) 0 u
        else u = []) ∧ t = a ++ u) := by
  unfold clearPanel
  refine ((areaLoad_sends img 0 0 pw ph _).andThen (Q := fun u => if init then
    isUpdateTrace (highHalf img) (lowHalf img) 0 0 (clipExtent 0 pw pw) (clipExtent 0 ph ph) 0 u else u = []) ?_)
  cases init
  · exact sends_updates_nil
  · exact updateArea_sends pw ph img 0 0 pw ph 0

/-! ## Running a script of wire events -/

/-- An accepted operation whose script is wire events only, on a quiet block. -/
theorem State.operate_sends {s : State} {op : Instr} {body : Latches → Except Stop Script} {script : Script}
    {P : List Event → Prop} (hq : s.quiet) (hg : gateAllows op s.lc = true) (hb : body s.latchNow = .ok script)
    (hp : Sends script P) :
    ∃ evs env, P (evs.map Event.untimed) ∧ s.operate op body = .next ((s.afterEvents evs).latched env) := by
  refine ⟨eventsOf (script s.env).1, (script s.env).2, (hp s.env).2, ?_⟩
  rw [State.operate_quiet hq hg hb, State.performAll_events (hp s.env).1,
    State.withSeq_self _ _ (by simpa using hq.1)]

end Sys2Proof.Machine
end

