-- ==== Sys2Proof/Laws/Exec.lean ====
section
/-! SUPPORT. Every instruction as one issued operation: its body, and what exec can answer. -/

namespace Sys2Proof.Machine

/-- The checks and the script of an instruction issued in a state. -/
def bodyOf (i : Instr) (s : State) (l : Latches) : Except Stop Script :=
  match i with
  | .nop => .ok (updates [])
  | .waitBusyLine => .ok (wire [.waitReady])
  | .pollBusyReg => .ok (pollBusyRegister (operand l 0))
  | .writeCommand => .ok (wire (commandFrame (operand l 0)))
  | .writeWord => .ok (wire (writeFrame (operand l 0)))
  | .writeRegister => .ok (wire (writeRegisterFrames (operand l 0) (operand l 1)))
  | .setTargetAddr => .ok (wire (targetAddrFrames (operand32 l 0 1)))
  | .writeArgs cnt => .ok (wire (argsFrames (operand l 0) (argOperands l cnt.toNat)))
  | .readWord => .ok (thenReceived (wire readFrame) fun ws => updates [.setRdata (ws.getLastD 0)])
  | .readWords =>
    if Config.P_RDBUF_WORDS < (operand l 0).toNat then .error (.reject .errAlloc)
    else .ok (thenReceived (wire (bulkReadFrame Config.P_WAIT_EACH_STREAM_WORD (operand l 0).toNat)) fun ws =>
      updates (copyOutFrom 0 ws))
  | .readRegister =>
    .ok (thenReceived (wire (readRegisterFrames (operand l 0))) fun ws => updates [.setRdata (ws.getLastD 0)])
  | .resetPanel => .ok resetPanelScript
  | .systemRun => .ok systemRunScript
  | .configure => .ok configureScript
  | .getDeviceInfo => .ok (getDeviceInfoScript fun _ => updates [])
  | .setup => .ok (andThen resetPanelScript (andThen systemRunScript (andThen configureScript
      (getDeviceInfoScript (setupClear l.reversed)))))
  | .setPixel =>
    if inBounds (operand l 0) (operand l 1) s.width s.height = false then .ok (updates [])
    else if Config.P_FB_CAPACITY ≤ pixelIndex (operand l 0) (operand l 1) s.width then
      .error (.fault .framebufferAddress)
    else .ok (updates [.writeFb (pixelIndex (operand l 0) (operand l 1) s.width)
      (packPixel (s.fbByte (pixelIndex (operand l 0) (operand l 1) s.width)) ((operand l 0).getLsbD 0)
        (colourOperand l))])
  | .readFbByte =>
    if Config.P_FB_CAPACITY ≤ (operand32 l 0 1).toNat then .error (.reject .errBounds)
    else .ok (updates [.setRdata ((s.fbByte (operand32 l 0 1).toNat).zeroExtend 16)])
  | .writeRegion =>
    if s.width.toNat < (operand l 0).toNat ∨ s.height.toNat < (operand l 1).toNat then .ok (updates [])
    else if (operand l 0).toNat % 4 ≠ 0 ∨ (operand l 2).toNat % 4 ≠ 0 then .error (.reject .errAlign)
    else if Config.P_FB_CAPACITY < (operand32 l 4 5).toNat + 2 * areaWords (operand l 2) (operand l 3) then
      .error (.reject .errBounds)
    else .ok (areaLoad s.imgbuf (operand l 0) (operand l 1) (operand l 2) (operand l 3)
      (s.pixelWords (operand32 l 4 5).toNat (areaWords (operand l 2) (operand l 3)) l.reversed))
  | .updateRegion =>
    if operand l 4 = Config.MODE_NONE then .ok (updates [])
    else if s.width.toNat < (operand l 0).toNat ∨ s.height.toNat < (operand l 1).toNat then .error (.reject .errBounds)
    else .ok (updateArea s.width s.height s.imgbuf (operand l 0) (operand l 1) (operand l 2) (operand l 3) (operand l 4))
  | .writeDisplay =>
    if s.lc ≠ .ready then .ok (updates [])
    else if Config.P_FB_CAPACITY < 2 * areaWords s.width s.height then .error (.fault .framebufferAddress)
    else .ok (andThen
      (areaLoad s.imgbuf 0 0 s.width s.height (s.pixelWords 0 (areaWords s.width s.height) l.reversed))
      (updateArea s.width s.height s.imgbuf 0 0 s.width s.height Config.MODE_FAST4))
  | .clear => .ok (clearPanel s.width s.height s.imgbuf l.reversed (initOperand l))

/-- A well-formed instruction is issued with its body. -/
theorem exec_eq {i : Instr} (h : i.wellFormed = true) (s : State) : exec i s = s.operate i (bodyOf i s) := by
  cases i
  case writeArgs cnt =>
    have hc : ¬ (Config.P_MAX_ARGS < cnt.toNat ∧ s.busy = false) := by
      simp only [Instr.wellFormed, decide_eq_true_eq] at h
      omega
    simp only [exec, execWriteArgs, if_neg hc]
    rfl
  all_goals rfl

/-- Issuing any instruction either records one error and does nothing else, or starts its script, or faults. -/
theorem exec_cases (i : Instr) (s : State) :
    (∃ c, exec i s = .next (s.setFlag c) ∧ c ≠ .warnTimeout) ∨
    (s.seq = .idle ∧ gateAllows i s.lc = true ∧ i.wellFormed = true ∧
      ((∃ f, bodyOf i s s.latchNow = .error (.fault f) ∧ exec i s = .fault f) ∨
       (∃ script, bodyOf i s s.latchNow = .ok script ∧ exec i s = .next (s.launch i script)))) := by
  by_cases hw : i.wellFormed = true
  · rw [exec_eq hw]
    rcases State.operate_cases s i (bodyOf i s) with ⟨_, h⟩ | ⟨_, _, h⟩ | ⟨hb, hg, ⟨c, hc, h⟩ | ⟨f, hf, h⟩ | ⟨p, hp, h⟩⟩
    · exact .inl ⟨_, h, by decide⟩
    · exact .inl ⟨_, h, by decide⟩
    · refine .inl ⟨_, h, ?_⟩
      rintro rfl
      cases i <;> simp only [bodyOf] at hc
      all_goals try cases hc
      all_goals (repeat' split at hc)
      all_goals cases hc
    · exact .inr ⟨State.idle_of_not_busy hb, hg, hw, .inl ⟨f, hf, h⟩⟩
    · exact .inr ⟨State.idle_of_not_busy hb, hg, hw, .inr ⟨p, hp, h⟩⟩
  · cases i
    case writeArgs cnt =>
      simp only [Instr.wellFormed, decide_eq_true_eq, Nat.not_le] at hw
      left
      by_cases hb : s.busy = true
      · exact ⟨.errOverrun, by simp [exec, execWriteArgs, hb, State.operate, State.raise], by decide⟩
      · exact ⟨.errIllegal, by simp [exec, execWriteArgs, hb, hw, State.raise], by decide⟩
    all_goals exact absurd rfl hw

/-- A next state of exec. -/
theorem exec_next {i : Instr} {s t : State} (h : exec i s = .next t) :
    (∃ c, t = s.setFlag c ∧ c ≠ .warnTimeout) ∨
    (s.seq = .idle ∧ gateAllows i s.lc = true ∧ i.wellFormed = true ∧
      ∃ script, bodyOf i s s.latchNow = .ok script ∧ t = s.launch i script) := by
  rcases exec_cases i s with ⟨c, hc, hw⟩ | ⟨hs, hg, hw, ⟨f, _, hf⟩ | ⟨p, hp, hn⟩⟩
  · rw [h] at hc
    cases hc
    exact .inl ⟨c, rfl, hw⟩
  · rw [h] at hf
    cases hf
  · rw [h] at hn
    cases hn
    exact .inr ⟨hs, hg, hw, p, hp, rfl⟩

/-- An accepted instruction on a quiet block performs its whole script. -/
theorem exec_quiet {i : Instr} {s : State} {script : Script} (hq : s.quiet) (hg : gateAllows i s.lc = true)
    (hw : i.wellFormed = true) (hb : bodyOf i s s.latchNow = .ok script) :
    exec i s = .next (((s.performAll (script s.env).1).latched (script s.env).2).withSeq .idle) := by
  rw [exec_eq hw]
  exact State.operate_quiet hq hg hb

/-- The gate. -/
theorem exec_gate {i : Instr} {s : State} (hs : s.seq = .idle) (hg : gateAllows i s.lc = false)
    (hw : i.wellFormed = true) : exec i s = .next (s.setFlag .errState) := by
  rw [exec_eq hw]
  exact State.operate_gate hs hg

/-- An operand check. -/
theorem exec_reject {i : Instr} {s : State} {c : Cause} (hs : s.seq = .idle) (hg : gateAllows i s.lc = true)
    (hw : i.wellFormed = true) (hb : bodyOf i s s.latchNow = .error (.reject c)) : exec i s = .next (s.setFlag c) := by
  rw [exec_eq hw]
  exact State.operate_reject hs hg hb

/-- An instruction whose script is wire events only. -/
theorem exec_sends {i : Instr} {s : State} {script : Script} {P : List Event → Prop} (hq : s.quiet)
    (hg : gateAllows i s.lc = true) (hw : i.wellFormed = true) (hb : bodyOf i s s.latchNow = .ok script)
    (hp : Sends script P) :
    ∃ evs env, P (evs.map Event.untimed) ∧ exec i s = .next ((s.afterEvents evs).latched env) := by
  rw [exec_eq hw]
  exact State.operate_sends hq hg hb hp

end Sys2Proof.Machine
end

