-- ==== Sys2Proof/Laws/Memory.lean ====
section
/-! SUPPORT. The laws of the framebuffer RAM: read after write, read after zero-fill, and that every operation keeps the
canonical form. -/

namespace Sys2Proof.Machine

/-- The memory after reset is in canonical form. -/
theorem Memory.wf_reset : State.reset.fb.wf = true := rfl

theorem Memory.read_write (m : Memory) (a b : Nat) (v : Byte) :
    (m.write a v).read b = if a = b then some v else m.read b := by
  induction m with
  | nil => simp [Memory.write, Memory.read]
  | cons c rest ih =>
    obtain ⟨k, u⟩ := c
    unfold Memory.write
    split
    · simp [Memory.read]
    · split
      · subst_vars
        simp only [Memory.read]
        split <;> rfl
      · rename_i h1 h2
        simp only [Memory.read, ih]
        split
        · subst_vars
          simp [Ne.symm h2]
        · rfl

theorem risingFrom_mono {lo lo' : Nat} {m : Memory} (h : risingFrom lo' m = true) (hl : lo ≤ lo') :
    risingFrom lo m = true := by
  cases m with
  | nil => rfl
  | cons c rest =>
    simp only [risingFrom, Bool.and_eq_true, decide_eq_true_eq] at h ⊢
    exact ⟨by omega, h.2⟩

theorem risingFrom_write {lo a : Nat} {v : Byte} {m : Memory} (h : risingFrom lo m = true) (ha : lo ≤ a) :
    risingFrom lo (m.write a v) = true := by
  induction m generalizing lo with
  | nil => simp [Memory.write, risingFrom, ha]
  | cons c rest ih =>
    obtain ⟨k, u⟩ := c
    simp only [risingFrom, Bool.and_eq_true, decide_eq_true_eq] at h
    unfold Memory.write
    split
    · simp only [risingFrom, Bool.and_eq_true, decide_eq_true_eq]
      exact ⟨ha, by omega, h.2⟩
    · split
      · subst_vars
        simp only [risingFrom, Bool.and_eq_true, decide_eq_true_eq]
        exact ⟨ha, h.2⟩
      · simp only [risingFrom, Bool.and_eq_true, decide_eq_true_eq]
        exact ⟨h.1, ih h.2 (by omega)⟩

theorem Memory.mem_write {m : Memory} {a : Nat} {v : Byte} {c : Host.Cell} (h : c ∈ m.write a v) :
    c = (a, v) ∨ c ∈ m := by
  induction m with
  | nil => simpa [Memory.write] using h
  | cons d rest ih =>
    obtain ⟨k, u⟩ := d
    unfold Memory.write at h
    split at h
    · simpa using h
    · split at h
      · rcases List.mem_cons.1 h with h | h
        · exact .inl h
        · exact .inr (List.mem_cons_of_mem _ h)
      · rcases List.mem_cons.1 h with h | h
        · exact .inr (by simp [h])
        · rcases ih h with h | h
          · exact .inl h
          · exact .inr (List.mem_cons_of_mem _ h)

/-- A write inside the RAM keeps the canonical form. -/
theorem Memory.wf_write {m : Memory} {a : Nat} {v : Byte} (h : m.wf = true) (ha : a < Config.P_FB_CAPACITY) :
    (m.write a v).wf = true := by
  simp only [Memory.wf, Bool.and_eq_true, List.all_eq_true, decide_eq_true_eq] at h ⊢
  refine ⟨risingFrom_write h.1 (Nat.zero_le _), fun c hc => ?_⟩
  rcases Memory.mem_write hc with rfl | hc
  · exact ha
  · exact h.2 c hc

/-- After a zero-fill of `n` bytes they read 0x00 and every other address reads as before. -/
theorem Memory.read_zeroFill (m : Memory) (n a : Nat) :
    (m.zeroFill n).read a = if a < n then some 0 else m.read a := by
  induction n with
  | zero => rfl
  | succ n ih =>
    rw [Memory.zeroFill, Memory.read_write, ih]
    by_cases h : n = a
    · simp [h]
    · simp only [if_neg h, show a < n + 1 ↔ a < n by omega]

/-- A zero-fill inside the RAM keeps the canonical form. -/
theorem Memory.wf_zeroFill {m : Memory} {n : Nat} (h : m.wf = true) (hn : n ≤ Config.P_FB_CAPACITY) :
    (m.zeroFill n).wf = true := by
  induction n with
  | zero => exact h
  | succ n ih => exact Memory.wf_write (ih (by omega)) (by omega)

end Sys2Proof.Machine
end

