-- ==== Sys2Proof/Laws/PerInstr.lean ====
section
/-! SUPPORT. Per instruction: its command word lies in its row of opcode_table.json (columns match and mask). -/

namespace Sys2Proof.Laws.TableRow

/-- A row of the opcode table: the bits fixed by it and their values. -/
structure Row where
  bits : Word
  mask : Word

/-- The row of each instruction. -/
def row : Instr → Row
  | .nop => ⟨0x0000, 0xFFFF⟩
  | .waitBusyLine => ⟨0x0001, 0xFFFF⟩
  | .pollBusyReg => ⟨0x0002, 0xFFFF⟩
  | .writeCommand => ⟨0x0010, 0xFFFF⟩
  | .writeWord => ⟨0x0011, 0xFFFF⟩
  | .writeRegister => ⟨0x0012, 0xFFFF⟩
  | .setTargetAddr => ⟨0x0013, 0xFFFF⟩
  | .writeArgs _ => ⟨0x0014, 0xF0FF⟩
  | .readWord => ⟨0x0015, 0xFFFF⟩
  | .readWords => ⟨0x0016, 0xFFFF⟩
  | .readRegister => ⟨0x0017, 0xFFFF⟩
  | .resetPanel => ⟨0x0020, 0xFFFF⟩
  | .systemRun => ⟨0x0021, 0xFFFF⟩
  | .configure => ⟨0x0022, 0xFFFF⟩
  | .getDeviceInfo => ⟨0x0023, 0xFFFF⟩
  | .setup => ⟨0x0024, 0xFFFF⟩
  | .setPixel => ⟨0x0030, 0xFFFF⟩
  | .readFbByte => ⟨0x0031, 0xFFFF⟩
  | .writeRegion => ⟨0x0040, 0xFFFF⟩
  | .updateRegion => ⟨0x0041, 0xFFFF⟩
  | .writeDisplay => ⟨0x0042, 0xFFFF⟩
  | .clear => ⟨0x0043, 0xFFFF⟩

/-- The word of a well-formed instruction has its row's fixed bits, and the bits its row leaves open are its count. -/
def Statement (i : Instr) : Prop :=
  i.wellFormed = true →
    encode i &&& (row i).mask = (row i).bits ∧ encode i &&& ~~~(row i).mask = i.count.zeroExtend 16 <<< 8

theorem nop : Statement .nop := by unfold Statement; decide
theorem waitBusyLine : Statement .waitBusyLine := by unfold Statement; decide
theorem pollBusyReg : Statement .pollBusyReg := by unfold Statement; decide
theorem writeCommand : Statement .writeCommand := by unfold Statement; decide
theorem writeWord : Statement .writeWord := by unfold Statement; decide
theorem writeRegister : Statement .writeRegister := by unfold Statement; decide
theorem setTargetAddr : Statement .setTargetAddr := by unfold Statement; decide
theorem writeArgs (cnt : BitVec 4) : Statement (.writeArgs cnt) := by
  unfold Statement
  revert cnt
  decide
theorem readWord : Statement .readWord := by unfold Statement; decide
theorem readWords : Statement .readWords := by unfold Statement; decide
theorem readRegister : Statement .readRegister := by unfold Statement; decide
theorem resetPanel : Statement .resetPanel := by unfold Statement; decide
theorem systemRun : Statement .systemRun := by unfold Statement; decide
theorem configure : Statement .configure := by unfold Statement; decide
theorem getDeviceInfo : Statement .getDeviceInfo := by unfold Statement; decide
theorem setup : Statement .setup := by unfold Statement; decide
theorem setPixel : Statement .setPixel := by unfold Statement; decide
theorem readFbByte : Statement .readFbByte := by unfold Statement; decide
theorem writeRegion : Statement .writeRegion := by unfold Statement; decide
theorem updateRegion : Statement .updateRegion := by unfold Statement; decide
theorem writeDisplay : Statement .writeDisplay := by unfold Statement; decide
theorem clear : Statement .clear := by unfold Statement; decide

end Sys2Proof.Laws.TableRow
end

