-- ==== Sys2Proof/Laws/Scripts.lean ====
section
/-! SUPPORT. The lifecycle gate as the table of Safety.lean, sticky bits over micro-steps, and which micro-steps the script
of each instruction may contain. -/

namespace Sys2Proof.Machine

theorem gateAllows_iff (i : Instr) (l : Lifecycle) : gateAllows i l = true ↔ l ∈ gateSet i := by
  cases i <;> cases l <;> simp [gateAllows, gateSet, trafficStates]

theorem State.flag_setFlag_eq (s : State) (c d : Cause) : (s.setFlag c).flag d = (s.flag d || decide (c = d)) := by
  cases c <;> cases d <;> simp [State.flag, State.setFlag, Cause.code, stickyMask]

theorem State.flag_perform (s : State) (m : Micro) (c : Cause) (h : s.flag c = true) : (s.perform m).flag c = true := by
  cases m with
  | waitReady b => cases b
                   · exact h
                   · change (s.setFlag _).flag c = true; rw [State.flag_setFlag_eq, h]; rfl
  | pollTimeout => change (s.setFlag _).flag c = true; rw [State.flag_setFlag_eq, h]; rfl
  | setSticky d => change (s.setFlag _).flag c = true; rw [State.flag_setFlag_eq, h]; rfl
  | _ => exact h

theorem State.flag_performAll (ms : List Micro) (s : State) (c : Cause) (h : s.flag c = true) : (s.performAll ms).flag c = true := by
  induction ms generalizing s with
  | nil => exact h
  | cons m ms ih => exact ih _ (State.flag_perform s m c h)

theorem State.flag_performAll_ne (c : Cause) (hc : c ≠ .warnTimeout) (ms : List Micro) (s : State) (h : ∀ m ∈ ms, m ≠ .setSticky c) : (s.performAll ms).flag c = s.flag c := by
  induction ms generalizing s with
  | nil => rfl
  | cons m ms ih =>
    rw [State.performAll_cons, ih _ (fun n hn => h n (List.mem_cons_of_mem _ hn))]
    have hm := h m (List.mem_cons_self ..)
    cases m with
    | waitReady b => cases b
                     · rfl
                     · change (s.setFlag _).flag c = _; rw [State.flag_setFlag_eq]; simp [hc.symm]
    | pollTimeout => change (s.setFlag _).flag c = _; rw [State.flag_setFlag_eq]; simp [hc.symm]
    | setSticky d => change (s.setFlag _).flag c = _; rw [State.flag_setFlag_eq]; simp; intro h; simp [h] at hm
    | _ => rfl

/-! ## Which micro-steps a script contains -/

/-- A micro-step with an event. -/
def Micro.isWire (m : Micro) : Prop := m.event.isSome = true

/-- Every micro-step of the script satisfies `Q`, whatever the environment chooses. -/
def Only (sc : Script) (Q : Micro → Prop) : Prop := ∀ e, ∀ m ∈ (sc e).1, Q m

theorem Only.mono {sc} {P Q : Micro → Prop} (h : Only sc P) (hpq : ∀ m, P m → Q m) : Only sc Q :=
  fun e m hm => hpq m (h e m hm)
theorem only_wire (ps) : Only (wire ps) Micro.isWire := fun e m hm => wire_isWire ps e m hm
theorem only_updates {ms : List Micro} {Q : Micro → Prop} (h : ∀ m ∈ ms, Q m) : Only (updates ms) Q := fun _ m hm => h m hm
theorem only_andThen {p q : Script} {Q} (hp : Only p Q) (hq : Only q Q) : Only (andThen p q) Q := by
  intro e m hm
  rcases List.mem_append.1 hm with hm | hm
  · exact hp e m hm
  · exact hq _ m hm
theorem only_thenReceived {p : Script} {k : List Word → Script} {Q} (hp : Only p Q) (hq : ∀ ws, Only (k ws) Q) : Only (thenReceived p k) Q := by
  intro e m hm
  rcases List.mem_append.1 hm with hm | hm
  · exact hp e m hm
  · exact hq _ _ m hm
theorem only_sends {sc P} (h : Sends sc P) : Only sc Micro.isWire := fun e m hm => (h e).1 m hm

/-- A write of a device-info register (10_state.md R45). -/
def Micro.setsInfo : Micro → Bool
  | .setPanelW _ | .setPanelH _ | .setImgbufL _ | .setImgbufH _ | .setFwver _ _ | .setLutver _ _ => true
  | _ => false

/-- The micro-steps an instruction's script may contain. -/
def mayContain : Instr → Micro → Prop
  | .readWord, m | .readRegister, m | .readFbByte, m => Micro.isWire m ∨ ∃ w, m = .setRdata w
  | .readWords, m => Micro.isWire m ∨ ∃ i w, m = .setRdbuf i w
  | .resetPanel, m => Micro.isWire m ∨ m = .setLc .reset
  | .systemRun, m => Micro.isWire m ∨ m = .setLc .running
  | .configure, m => Micro.isWire m ∨ m = .setLc .configured
  | .getDeviceInfo, m =>
    Micro.isWire m ∨ (∃ i w, m = .setRdbuf i w) ∨ (∃ c, m = .setSticky c ∧ (c = .errDevinfo ∨ c = .errAlloc)) ∨
      m = .setLc .failed ∨ m = .setLc .ready ∨
      m.setsInfo = true ∨ m = .setGeomKnown ∨ ∃ a v, m = .writeFb a v
  | .setup, m =>
    Micro.isWire m ∨ (∃ l, m = .setLc l) ∨ (∃ i w, m = .setRdbuf i w) ∨
      (∃ c, m = .setSticky c ∧ (c = .errDevinfo ∨ c = .errAlloc)) ∨
      m.setsInfo = true ∨ m = .setGeomKnown ∨ ∃ a v, m = .writeFb a v
  | .setPixel, m => ∃ a v, m = .writeFb a v
  | _, m => Micro.isWire m

theorem infoFailure_cases (w h c) (hh : infoFailure w h = some c) : c = .errDevinfo ∨ c = .errAlloc := by
  unfold infoFailure at hh
  split at hh
  · cases hh; simp
  split at hh
  · cases hh; simp
  · cases hh

/-- A copy-out writes RDBUF entries only. -/
theorem mem_copyOutFrom {k : Nat} {ws : List Word} {m : Micro} (h : m ∈ copyOutFrom k ws) : ∃ i w, m = .setRdbuf i w := by
  induction ws generalizing k with
  | nil => cases h
  | cons w ws ih =>
    rcases List.mem_cons.1 h with rfl | h
    · exact ⟨k, w, rfl⟩
    · exact ih h

theorem mem_infoUpdates {r : List Word} {m : Micro} (h : m ∈ infoUpdates r) : m.setsInfo = true := by
  simp only [infoUpdates, List.mem_append, List.mem_cons, List.mem_map, List.not_mem_nil, or_false] at h
  rcases h with ((rfl | rfl | rfl | rfl) | ⟨_, _, rfl⟩) | ⟨_, _, rfl⟩ <;> rfl

theorem mem_zeroFillUpdates {n : Nat} {m : Micro} (h : m ∈ zeroFillUpdates n) : ∃ a, a < n ∧ m = .writeFb a 0 := by
  obtain ⟨a, ha, rfl⟩ := List.mem_map.1 h
  exact ⟨a, List.mem_range.1 ha, rfl⟩

theorem getDeviceInfo_only (k : List Word → Script) (Q : Micro → Prop) (hw : ∀ m, Micro.isWire m → Q m) (hk : ∀ r, Only (k r) Q)
   (h : ∀ m, mayContain .getDeviceInfo m → Q m) : Only (getDeviceInfoScript k) Q := by
  refine only_thenReceived ((only_wire _).mono hw) fun r => only_andThen (only_updates ?_) (hk r)
  intro m hm
  apply h
  unfold deviceInfoUpdates at hm
  rcases List.mem_append.1 hm with hm | hm
  · simp [mayContain, mem_copyOutFrom hm]
  · split at hm
    · rename_i c hc
      have := infoFailure_cases _ _ _ hc
      simp at hm; rcases hm with rfl | rfl <;> simp [mayContain, this]
    · simp only [List.mem_append, List.mem_singleton] at hm
      rcases hm with ((hm | rfl) | hm) | rfl
      · simp [mayContain, mem_infoUpdates hm]
      · simp [mayContain]
      · obtain ⟨a, _, rfl⟩ := mem_zeroFillUpdates hm
        simp [mayContain]
      · simp [mayContain]

theorem script_mayContain {i : Instr} {s : State} {l : Latches} {sc : Script} (h : bodyOf i s l = .ok sc) : Only sc (mayContain i) := by
  cases i <;> simp only [bodyOf] at h
  case nop => cases h; exact only_updates (by simp)
  case waitBusyLine => cases h; exact only_wire _
  case pollBusyReg => cases h; exact only_sends (pollBusyRegister_sends _)
  case writeCommand => cases h; exact only_wire _
  case writeWord => cases h; exact only_wire _
  case writeRegister => cases h; exact only_wire _
  case setTargetAddr => cases h; exact only_wire _
  case writeArgs => cases h; exact only_wire _
  case readWord => cases h; exact only_thenReceived ((only_wire _).mono fun m h => .inl h) fun ws => only_updates (by simp [mayContain])
  case readWords => 
    split at h <;> cases h
    exact only_thenReceived ((only_wire _).mono fun m h => .inl h) fun ws => only_updates fun m h => .inr (mem_copyOutFrom h)
  case readRegister => cases h; exact only_thenReceived ((only_wire _).mono fun m h => .inl h) fun ws => only_updates (by simp [mayContain])
  case resetPanel => cases h; exact only_andThen ((only_wire _).mono fun m h => .inl h) (only_updates (by simp [mayContain]))
  case systemRun => cases h; exact only_andThen ((only_wire _).mono fun m h => .inl h) (only_updates (by simp [mayContain]))
  case configure => cases h; exact only_andThen ((only_wire _).mono fun m h => .inl h) (only_updates (by simp [mayContain]))
  case getDeviceInfo => cases h; exact getDeviceInfo_only _ _ (fun m h => .inl h) (fun r => only_updates (by simp)) (fun m h => h)
  case setup => 
    cases h
    refine only_andThen (only_andThen ((only_wire _).mono fun m h => .inl h) (only_updates (by simp [mayContain])))
      (only_andThen (only_andThen ((only_wire _).mono fun m h => .inl h) (only_updates (by simp [mayContain])))
      (only_andThen (only_andThen ((only_wire _).mono fun m h => .inl h) (only_updates (by simp [mayContain]))) ?_))
    refine getDeviceInfo_only _ _ (fun m h => .inl h) (fun r => ?_) (fun m h => ?_)
    · unfold setupClear; split
      · exact only_updates (by simp)
      · exact (only_sends (clearPanel_sends _ _ _ _ _)).mono fun m h => .inl h
    · simp only [mayContain] at h ⊢
      rcases h with h | h | h | h | h | h | h | h <;> simp [h]
  case setPixel => 
    split at h
    · cases h; exact only_updates (by simp)
    split at h <;> cases h
    exact only_updates (by simp [mayContain])
  case readFbByte =>
    split at h <;> cases h
    exact only_updates (by simp [mayContain])
  case writeRegion =>
    split at h
    · cases h; exact only_updates (by simp)
    split at h
    · cases h
    split at h <;> cases h
    exact only_sends (areaLoad_sends _ _ _ _ _ _)
  case updateRegion =>
    split at h
    · cases h; exact only_updates (by simp)
    split at h <;> cases h
    exact only_sends (updateArea_sends _ _ _ _ _ _ _ _)
  case writeDisplay =>
    split at h
    · cases h; exact only_updates (by simp)
    split at h <;> cases h
    exact only_sends ((areaLoad_sends _ _ _ _ _ _).andThen (updateArea_sends _ _ _ _ _ _ _ _))
  case clear => cases h; exact only_sends (clearPanel_sends _ _ _ _ _)


end Sys2Proof.Machine
end

