-- ==== Sys2Proof/Laws/Reads.lean ====
section
/-! SUPPORT. Instructions that update registers after their frames, with or without the words they received, and the copy-out
of received words. -/

namespace Sys2Proof.Machine

/-- What a copy-out of words from entry `i` on leaves in a buffer; the other entries stay (10_state.md R43). -/
def copyWords {n : Nat} : Nat → List Word → Vector Word n → Vector Word n
  | _, [], buf => buf
  | i, w :: ws, buf => copyWords (i + 1) ws (buf.setIfInBounds i w)

/-- The updates of a copy-out change RDBUF, and nothing else. -/
theorem performAll_copyOutFrom (s : State) (k : Nat) (ws : List Word) :
    s.performAll (copyOutFrom k ws) = { s with rdbuf := copyWords k ws s.rdbuf } := by
  induction ws generalizing s k with
  | nil => rfl
  | cons w ws ih => exact ih { s with rdbuf := s.rdbuf.setIfInBounds k w } (k + 1)

/-- What a copy-out leaves in each entry (10_state.md R43). -/
theorem getElem_copyWords {n : Nat} (k : Nat) (ws : List Word) (buf : Vector Word n) (i : Nat) (hi : i < n) :
    (copyWords k ws buf)[i] = if k ≤ i ∧ i < k + ws.length then ws.getD (i - k) 0 else buf[i] := by
  induction ws generalizing k buf with
  | nil =>
    have : ¬ (k ≤ i ∧ i < k + ([] : List Word).length) := by
      simp only [List.length_nil]
      omega
    rw [if_neg this]
    rfl
  | cons w ws ih =>
    have e : copyWords k (w :: ws) buf = copyWords (k + 1) ws (buf.setIfInBounds k w) := rfl
    rw [e, ih]
    by_cases hk : k = i
    · subst hk
      have h1 : ¬ (k + 1 ≤ k ∧ k < k + 1 + ws.length) := by omega
      have h2 : k ≤ k ∧ k < k + (w :: ws).length := by
        simp only [List.length_cons]
        omega
      rw [if_neg h1, if_pos h2, Nat.sub_self]
      simp
    · have hb : (buf.setIfInBounds k w)[i] = buf[i] := Vector.getElem_setIfInBounds_ne _ hk
      rw [hb]
      by_cases hlt : k + 1 ≤ i ∧ i < k + 1 + ws.length
      · have h2 : k ≤ i ∧ i < k + (w :: ws).length := by
          simp only [List.length_cons]
          omega
        rw [if_pos hlt, if_pos h2]
        have h3 : i - k = (i - (k + 1)) + 1 := by omega
        rw [h3]
        rfl
      · have h2 : ¬ (k ≤ i ∧ i < k + (w :: ws).length) := by
          simp only [List.length_cons]
          omega
        rw [if_neg hlt, if_neg h2]

/-- A copy-out of as many words as there are entries replaces them all. -/
theorem copyWords_full {n : Nat} (ws : List Word) (buf : Vector Word n) (h : ws.length = n) :
    copyWords 0 ws buf = ⟨⟨ws⟩, h⟩ := by
  ext i hi
  rw [getElem_copyWords, if_pos ⟨Nat.zero_le _, by omega⟩]
  simp [List.getD_eq_getElem?_getD, h, hi]

/-! ## The device-info record (43_init.md R214) -/

theorem infoWord_toList (r : Vector Word 20) (i : Nat) (hi : i < 20) : infoWord r.toList i = r[i] := by
  simp [infoWord, List.getD_eq_getElem?_getD, hi]

/-- Writing all eight version registers one after another. -/
theorem set_eight (v : Vector Word 8) (g : Fin 8 → Word) :
    (((((((v.set 0 (g 0)).set 1 (g 1)).set 2 (g 2)).set 3 (g 3)).set 4 (g 4)).set 5 (g 5)).set 6 (g 6)).set 7 (g 7)
      = Vector.ofFn g := by
  ext i hi
  have : i = 0 ∨ i = 1 ∨ i = 2 ∨ i = 3 ∨ i = 4 ∨ i = 5 ∨ i = 6 ∨ i = 7 := by omega
  rcases this with rfl | rfl | rfl | rfl | rfl | rfl | rfl | rfl <;> simp

theorem finRange_eight : List.finRange 8 = [0, 1, 2, 3, 4, 5, 6, 7] := by decide

theorem performAll_setFwver (s : State) (g : Fin 8 → Word) :
    s.performAll ((List.finRange 8).map fun i => .setFwver i (g i)) = { s with fwver := Vector.ofFn g } := by
  rw [finRange_eight, ← set_eight s.fwver]
  simp only [List.map_cons, List.map_nil, State.performAll_cons, State.performAll_nil, State.perform]
  rfl

theorem performAll_setLutver (s : State) (g : Fin 8 → Word) :
    s.performAll ((List.finRange 8).map fun i => .setLutver i (g i)) = { s with lutver := Vector.ofFn g } := by
  rw [finRange_eight, ← set_eight s.lutver]
  simp only [List.map_cons, List.map_nil, State.performAll_cons, State.performAll_nil, State.perform]
  rfl

/-- The device-info registers after their updates; nothing else changes (43_init.md R214). -/
theorem performAll_infoUpdates (s : State) (r : List Word) :
    s.performAll (infoUpdates r)
      = { s with
          panelW := infoWord r 0, panelH := infoWord r 1, imgbufL := infoWord r 2, imgbufH := infoWord r 3
          fwver := Vector.ofFn fun i : Fin 8 => infoWord r (4 + i.val)
          lutver := Vector.ofFn fun i : Fin 8 => infoWord r (12 + i.val) } := by
  rw [infoUpdates, State.performAll_append, State.performAll_append, performAll_setFwver, performAll_setLutver]
  rfl

/-- The zero-fill changes the framebuffer, and nothing else (43_init.md R214). -/
theorem performAll_zeroFillUpdates (s : State) (n : Nat) :
    s.performAll (zeroFillUpdates n) = { s with fb := s.fb.zeroFill n } := by
  induction n with
  | zero => rfl
  | succ n ih =>
    have e : zeroFillUpdates (n + 1) = zeroFillUpdates n ++ [.writeFb n 0] := by
      simp [zeroFillUpdates, List.range_succ]
    rw [e, State.performAll_append, ih]
    rfl

/-- What the updates of GET_DEVICE_INFO do with a record. -/
theorem performAll_deviceInfoUpdates (s : State) (r : Vector Word 20) :
    s.performAll (deviceInfoUpdates r.toList)
      = match infoFailure r[0] r[1] with
        | some c => { ({ s with rdbuf := r } : State).setFlag c with lc := .failed }
        | none =>
          { s with
            rdbuf := r, panelW := r[0], panelH := r[1], imgbufL := r[2], imgbufH := r[3]
            fwver := Vector.ofFn fun i : Fin 8 => r[4 + i.val]
            lutver := Vector.ofFn fun i : Fin 8 => r[12 + i.val]
            geomKnown := true, fb := s.fb.zeroFill (fbLen r[0] r[1]), lc := .ready } := by
  have hr : copyWords 0 r.toList s.rdbuf = r := copyWords_full _ _ (by simp)
  unfold deviceInfoUpdates
  rw [infoWord_toList r 0 (by omega), infoWord_toList r 1 (by omega), State.performAll_append, performAll_copyOutFrom, hr]
  cases infoFailure r[0] r[1] with
  | some c => rfl
  | none =>
    have h4 : ∀ i : Fin 8, infoWord r.toList (4 + i.val) = r[4 + i.val] := fun i => infoWord_toList r _ (by omega)
    have h12 : ∀ i : Fin 8, infoWord r.toList (12 + i.val) = r[12 + i.val] := fun i => infoWord_toList r _ (by omega)
    simp only [State.performAll_append, performAll_infoUpdates, State.performAll_cons, State.performAll_nil, State.perform,
      performAll_zeroFillUpdates, h4, h12, infoWord_toList r _ (by omega : 0 < 20), infoWord_toList r _ (by omega : 1 < 20),
      infoWord_toList r _ (by omega : 2 < 20), infoWord_toList r _ (by omega : 3 < 20)]

@[simp] theorem andThen_updates_nil (p : Script) : andThen p (updates []) = p := by
  funext e
  simp [andThen, updates]

/-- An accepted instruction whose frames are followed by updates that depend on the words received. -/
theorem exec_reads {i : Instr} {s : State} {ps : List Prim} {k : List Word → List Micro} (hq : s.quiet)
    (hg : gateAllows i s.lc = true) (hw : i.wellFormed = true)
    (hb : bodyOf i s s.latchNow = .ok (thenReceived (wire ps) fun ws => updates (k ws))) :
    ∃ evs env, evs.map Event.untimed = primEvents ps (Env.coming (rxCount ps) s.env) ∧
      exec i s
        = .next (((s.afterEvents evs).performAll (k (Env.coming (rxCount ps) s.env))).latched env) := by
  refine ⟨eventsOf (wire ps s.env).1, (wire ps s.env).2, ?_, ?_⟩
  · rw [wire_events, wire_received]
  · rw [exec_quiet hq hg hw hb]
    simp only [thenReceived, updates, State.performAll_append, State.performAll_events (wire_isWire ps s.env),
      wire_received]
    rw [State.withSeq_self]
    simpa [State.latched] using hq.1

/-- An accepted instruction whose frames are followed by fixed updates. -/
theorem exec_thenUpdates {i : Instr} {s : State} {ps : List Prim} {ms : List Micro} (hq : s.quiet)
    (hg : gateAllows i s.lc = true) (hw : i.wellFormed = true)
    (hb : bodyOf i s s.latchNow = .ok (andThen (wire ps) (updates ms))) :
    ∃ evs env, evs.map Event.untimed = primEvents ps (Env.coming (rxCount ps) s.env) ∧
      exec i s = .next (((s.afterEvents evs).performAll ms).latched env) := by
  exact exec_reads (k := fun _ => ms) hq hg hw hb

end Sys2Proof.Machine
end

