-- ==== Sys2Proof/Tests/Slice0.lean ====
section
/-! SUPPORT. The model's own tests. Expected words, traces and STATUS values are those of 30_encoding.md R112 and
95_test_vectors.md; the witnesses show states that meet the hypotheses of the statements. -/

namespace Sys2Proof.Tests

open Sys2Proof.Machine

/-! ## Helpers -/

/-- Every wait ready at its first sample, as many as a small test needs. -/
def readyWaits : List (Bool × List Bool) := List.replicate 90 (true, [])

/-- A controller that is always ready, drives `rx` and lets every poll make two further reads. -/
def calm (rx : List Word) : Env := { Env.unscripted with waits := readyWaits, rx := rx, polls := [2, 2, 2, 2] }

/-- "Panel 8×2" of 95_test_vectors.md, with a controller driving `rx` and operands `ops`. -/
def panel8 (rx ops : List Word) : State :=
  { State.reset with
    lc := .ready, geomKnown := true, panelW := 8, panelH := 2, imgbufH := 0x0010
    fb := State.reset.fb.zeroFill 8, args := Vector.ofFn fun i => ops.getD i.val 0, env := calm rx }

/-- The same engine in another lifecycle state, its geometry not known. -/
def early (l : Lifecycle) (rx ops : List Word) : State :=
  { panel8 rx ops with lc := l, geomKnown := false, panelW := 0, panelH := 0, imgbufH := 0, fb := [] }

/-- TRACE and STATUS of a next state. -/
def seen : Host.Outcome State Fault Refusal → Option (List Event × Word)
  | .next t => some (t.trace, t.statusWord)
  | .fault _ | .refused _ => none

/-- A value of a next state. -/
def got {α : Type} (f : State → α) : Host.Outcome State Fault Refusal → Option α
  | .next t => some (f t)
  | .fault _ | .refused _ => none

/-! ## WellFormed -/

theorem test_wellFormed_accepts_eight_arguments : Instr.wellFormed (.writeArgs 8) = true := by decide
theorem test_wellFormed_refuses_nine_arguments : Instr.wellFormed (.writeArgs 9) = false := by decide

/-! ## Decoding: the words of 30_encoding.md R112 and of 95_test_vectors.md section 3 -/

theorem test_decode_handshake :
    decode 0x0000 = .ok .nop ∧ decode 0x0001 = .ok .waitBusyLine ∧ decode 0x0002 = .ok .pollBusyReg := by decide
theorem test_decode_registerio :
    decode 0x0010 = .ok .writeCommand ∧ decode 0x0011 = .ok .writeWord ∧ decode 0x0012 = .ok .writeRegister ∧
    decode 0x0013 = .ok .setTargetAddr ∧ decode 0x0014 = .ok (.writeArgs 0) ∧ decode 0x0814 = .ok (.writeArgs 8) ∧
    decode 0x0015 = .ok .readWord ∧ decode 0x0016 = .ok .readWords ∧ decode 0x0017 = .ok .readRegister := by decide
theorem test_decode_init :
    decode 0x0020 = .ok .resetPanel ∧ decode 0x0021 = .ok .systemRun ∧ decode 0x0022 = .ok .configure ∧
    decode 0x0023 = .ok .getDeviceInfo ∧ decode 0x0024 = .ok .setup := by decide
theorem test_decode_codec_and_writer :
    decode 0x0030 = .ok .setPixel ∧ decode 0x0031 = .ok .readFbByte ∧ decode 0x0040 = .ok .writeRegion ∧
    decode 0x0041 = .ok .updateRegion ∧ decode 0x0042 = .ok .writeDisplay ∧ decode 0x0043 = .ok .clear := by decide
/-- Bit by bit: RSV = 0000, CNT = 0101, OPC = 0001 0100. -/
theorem test_decode_bits_of_write_args : decode 0b0000010100010100 = .ok (.writeArgs 5) := by decide
theorem test_decode_refuses :
    decode 0x0003 = .error .reservedOpcode ∧ decode 0x0044 = .error .reservedOpcode ∧
    decode 0x00FF = .error .reservedOpcode ∧ decode 0x1000 = .error .reservedBits ∧
    decode 0x0914 = .error .countTooLarge ∧ decode 0x0110 = .error .countNotZero := by decide
theorem test_decodeTableWord :
    decodeTableWord 16 0x0043 = some .clear ∧ decodeTableWord 16 0x0044 = none := by decide

/-! ## Pure functions: V-F1 to V-F5 -/

theorem test_pack : packPixel 0xA0 true 0x5 = 0xA5 ∧ packPixel 0xA5 false 0x0 = 0x05 ∧ packPixel 0x12 false 0xF = 0xF2 := by
  decide
theorem test_index : pixelIndex 959 539 960 = 259199 ∧ pixelIndex 7 1 8 = 7 := by decide
theorem test_encode_word : encodeWord 0x01 0x23 false = 0xFEDC ∧ encodeWord 0x01 0x23 true = 0x0123 := by decide
theorem test_clip : clipExtent 100 2000 960 = 860 ∧ clipExtent 960 5 960 = 0 ∧ clipExtent 0 5 2 = 2 := by decide
theorem test_words : areaWords 960 540 = 129600 ∧ areaWords 40 10 = 100 ∧ areaWords 0 7 = 0 := by decide

/-! ## One step of each operation -/

theorem test_nop : seen (exec .nop (panel8 [] [])) = some ([], 0x0038) := by decide
/-- V-HS3. -/
theorem test_waitBusyLine_timeout :
    seen (exec .waitBusyLine { panel8 [] [] with env := { calm [] with waits := [(false, [false])] } })
      = some ([.readyTimeout], 0x0138) := by decide
/-- V-HS4. -/
theorem test_waitBusyLine_gate : seen (exec .waitBusyLine (early .unreset [] [])) = some ([], 0x0800) := by decide
/-- V-HS6. -/
theorem test_pollBusyReg_two_reads :
    seen (exec .pollBusyReg (panel8 [3, 0] [])) = some (tracePOLL 3 ++ tracePOLL 0, 0x0038) := by decide
/-- V-HS7: the operand changes no event. -/
theorem test_pollBusyReg_deadline :
    seen (exec .pollBusyReg { panel8 [1, 1] [5] with env := { calm [1, 1] with polls := [1] } })
      = some (tracePOLL 1 ++ tracePOLL 1 ++ [.pollTimeout], 0x0138) := by decide
/-- V-RIO14: LC stays RESET. -/
theorem test_writeCommand : seen (exec .writeCommand (early .reset [] [1])) = some (traceCMD 1, 0x0002) := by decide
/-- V-RIO2. -/
theorem test_writeWord : seen (exec .writeWord (panel8 [] [0x1224])) = some (traceWR 0x1224, 0x0038) := by decide
/-- V-RIO3. -/
theorem test_writeRegister :
    seen (exec .writeRegister (panel8 [] [4, 1])) = some (traceREG 0x0004 0x0001, 0x0038) := by decide
/-- V-RIO4. -/
theorem test_setTargetAddr :
    seen (exec .setTargetAddr (panel8 [] [0x5678, 0x1234]))
      = some (traceREG 0x020A 0x1234 ++ traceREG 0x0208 0x5678, 0x0038) := by decide
/-- V-RIO6. -/
theorem test_writeArgs :
    seen (exec (.writeArgs 5) (panel8 [] [0x0021, 0x0120, 0, 0, 8, 2]))
      = some (traceCMD 0x0021 ++ traceWR 0x0120 ++ traceWR 0 ++ traceWR 0 ++ traceWR 8 ++ traceWR 2, 0x0038) := by decide
/-- V-RIO7. -/
theorem test_readWord :
    seen (exec .readWord (panel8 [0xBEEF] [])) = some (traceRD 0xBEEF, 0x0038) ∧
    got (·.rdata) (exec .readWord (panel8 [0xBEEF] [])) = some 0xBEEF := by decide
/-- V-RIO8; and 41_handshake.md R150 with 42_registerio.md R187: one micro-step per primitive and per entry copied out, so that
without words SEL- is the last. -/
theorem test_readWords :
    got (fun t => (t.rdbuf[0], t.rdbuf[1], t.rdbuf[2])) (exec .readWords (panel8 [0x03C0, 0x021C] [2]))
      = some (0x03C0, 0x021C, 0) ∧
    got (·.seq.left) (exec .readWords { panel8 [1, 2] [2] with inbox := [⟨some 0, .read 16 0x02⟩] })
      = some (6 + 2 + 1 + 2) ∧
    got (·.busy) (exec .readWords { panel8 [] [0] with inbox := [⟨some 7, .read 16 0x02⟩] }) = some false := by decide
/-- V-RIO11. -/
theorem test_readWords_too_many : seen (exec .readWords (panel8 [] [21])) = some ([], 0x4038) := by decide
/-- V-RIO12. -/
theorem test_readRegister :
    seen (exec .readRegister (panel8 [7] [0x1224])) = some (tracePOLL 7, 0x0038) ∧
    got (·.rdata) (exec .readRegister (panel8 [7] [0x1224])) = some 7 := by decide
/-- V-IN1. -/
theorem test_resetPanel :
    seen (exec .resetPanel (early .unreset [] [])) = some ([.rst .low, .delay 20, .rst .high, .delay 100], 0x0002) := by
  decide
/-- V-IN2. -/
theorem test_systemRun : seen (exec .systemRun (early .reset [] [])) = some (traceCMD 1, 0x0004) := by decide
/-- V-IN3. -/
theorem test_configure :
    seen (exec .configure (early .running [] []))
      = some (traceREG 4 1 ++ traceCMD 0x0039 ++ traceWR 1 ++ traceWR 0x08FC, 0x0006) := by decide
/-- A device-info record. -/
def record (w h : Word) : List Word := [w, h, 0x0000, 0x0010] ++ List.replicate 16 0
/-- V-IN5. -/
theorem test_getDeviceInfo_bad_width :
    got (fun t => (t.statusWord, t.panelW, t.rdbuf[0])) (exec .getDeviceInfo (early .configured (record 962 540) []))
      = some (0x800A, 0, 0x03C2) := by decide
set_option maxRecDepth 20000 in
/-- V-IN8. -/
theorem test_getDeviceInfo_accepts :
    got (fun t => (t.statusWord, t.panelW, t.panelH, t.imgbuf, t.fb.read 1, t.fb.read 2))
        (exec .getDeviceInfo (early .configured (record 4 1) []))
      = some (0x0038, 4, 1, 0x00100000, some 0, none) := by decide
/-- V-IN11. -/
theorem test_setup_gate : seen (exec .setup (early .reset [] [])) = some ([], 0x0802) := by decide
set_option maxRecDepth 20000 in
/-- The failure of R214 inside SETUP: no clear follows. -/
theorem test_setup_fails :
    got (fun t => (t.statusWord, t.trace.length)) (exec .setup (early .unreset (record 0 2) []))
      = some (0x800A, 4 + 6 + 18 + 18 + 6 + 27) := by decide
/-- E1. -/
theorem test_setPixel :
    got (·.fb.read 3) (exec .setPixel (panel8 [] [6, 0, 0xA])) = some (some 0xA0) := by decide
/-- E2. -/
theorem test_setPixel_out_of_bounds :
    got (fun t => (t.fb, t.statusWord)) (exec .setPixel (panel8 [] [8, 0, 0xF]))
      = some (State.reset.fb.zeroFill 8, 0x0038) := by decide
theorem test_readFbByte :
    got (·.rdata) (exec .readFbByte { panel8 [] [3] with fb := [(3, 0xA5)] }) = some 0x00A5 := by decide
/-- One byte past the RAM: 259200 = 3 * 65536 + 62592. -/
theorem test_readFbByte_bounds : seen (exec .readFbByte (panel8 [] [62592, 3])) = some ([], 0x1038) := by decide
set_option maxRecDepth 20000 in
/-- The example of 45_writer.md R270. -/
theorem test_writeRegion :
    seen (exec .writeRegion
        { panel8 [0] [0, 0, 4, 2, 0, 0] with fb := [(0, 0x01), (1, 0x23), (2, 0x45), (3, 0x67)] })
      = some (tracePOLL 0 ++ traceREG 0x020A 0x0010 ++ traceREG 0x0208 0 ++ traceCMD 0x0021 ++ traceWR 0x0120
          ++ traceWR 0 ++ traceWR 0 ++ traceWR 4 ++ traceWR 2 ++ traceStream [0xFEDC, 0xBA98] ++ traceCMD 0x0022,
        0x0038) := by decide
theorem test_writeRegion_align : seen (exec .writeRegion (panel8 [] [2, 0, 4, 1])) = some ([], 0x2038) := by decide
/-- The example of 45_writer.md R271. -/
theorem test_updateRegion :
    seen (exec .updateRegion (panel8 [0] [0, 0, 2000, 5, 6]))
      = some (tracePOLL 0 ++ traceCMD 0x0037 ++ traceWR 0 ++ traceWR 0 ++ traceWR 8 ++ traceWR 2 ++ traceWR 6
          ++ traceWR 0 ++ traceWR 0x0010, 0x0038) := by decide
/-- E5. -/
theorem test_updateRegion_mode_none : seen (exec .updateRegion (panel8 [] [0, 0, 8, 2, 8])) = some ([], 0x0038) := by
  decide
set_option maxRecDepth 20000 in
/-- E4: an all-zero buffer, not reversed. -/
theorem test_writeDisplay :
    got (fun t => (t.trace.countP fun e => decide (e = .tx 0xFFFF), t.trace.countP fun e => decide (e = .tx 0x0037)))
      (exec .writeDisplay (panel8 [0, 0] [])) = some (4, 1) := by decide
theorem test_writeDisplay_before_ready : seen (exec .writeDisplay (early .reset [] [])) = some ([], 0x0002) := by decide
set_option maxRecDepth 20000 in
/-- Reversed polarity, no init update. -/
theorem test_clear :
    seen (exec .clear { panel8 [0] [0] with reversed := true })
      = some (tracePOLL 0 ++ traceREG 0x020A 0x0010 ++ traceREG 0x0208 0 ++ traceCMD 0x0021 ++ traceWR 0x0120
          ++ traceWR 0 ++ traceWR 0 ++ traceWR 8 ++ traceWR 2 ++ traceStream [0, 0, 0, 0] ++ traceCMD 0x0022, 0x0038) := by
  decide

/-! ## Steps -/

theorem test_step_runs_a_placed_word :
    got (·.lc) (step (State.reset.withFetchWord 16 0x0020)) = some .reset := by decide
theorem test_step_illegal_word : seen (step ((panel8 [] []).withFetchWord 16 0x0003)) = some ([], 0x0238) := by decide

/-! ## Witnesses: states and operands that meet the hypotheses of each statement, at boundary values -/

/-- Panel 8×2 with a host step coming. -/
def hostNext (a : HostAct) : State := { panel8 [] [] with inbox := [⟨some 0, a⟩] }

/-- The same while an operation runs. -/
def busyNext (a : HostAct) : State :=
  { hostNext a with seq := .running .waitBusyLine 0 [.waitReady false] }

/-- The same while RESET_IN is asserted. -/
def heldNext (a : HostAct) : State := { State.reset with resetIn := true, inbox := [⟨some 0, a⟩] }

theorem idle_comesNext (a : HostAct) : (hostNext a).comesNext a [] := ⟨some 0, rfl, .inl rfl⟩
theorem busy_comesNext (a : HostAct) : (busyNext a).comesNext a [] := ⟨some 0, rfl, .inr rfl⟩
theorem held_comesNext (a : HostAct) : (heldNext a).comesNext a [] := ⟨some 0, rfl, .inl rfl⟩
theorem panel8_quiet (rx ops : List Word) : (panel8 rx ops).quiet := ⟨rfl, rfl⟩
theorem early_quiet (l : Lifecycle) (rx ops : List Word) : (early l rx ops).quiet := ⟨rfl, rfl⟩

theorem witness_DecodeOfEncodeIsTheInstruction : Instr.wellFormed (.writeArgs 8) = true := by decide
theorem witness_EncodeOfDecodeIsTheWord : decode 0x0814 = .ok (.writeArgs 8) := by decide
theorem witness_StepRunsTheCommandWritten :
    (hostNext (.write 16 0x00 0x0043)).seq = .idle ∧ (hostNext (.write 16 0x00 0x0043)).resetIn = false ∧
    (hostNext (.write 16 0x00 0x0043)).comesNext (.write 16 0x00 0x0043) [] ∧ decode 0x0043 = .ok .clear :=
  ⟨rfl, rfl, idle_comesNext _, by decide⟩
theorem witness_IllegalCommandSetsErrIllegal :
    (hostNext (.write 16 0x00 0x0914)).seq = .idle ∧ (hostNext (.write 16 0x00 0x0914)).resetIn = false ∧
    (hostNext (.write 16 0x00 0x0914)).comesNext (.write 16 0x00 0x0914) [] ∧ decode 0x0914 = .error .countTooLarge :=
  ⟨rfl, rfl, idle_comesNext _, by decide⟩
theorem witness_CommandWhileBusyIsDropped :
    (busyNext (.write 16 0x00 0)).busy = true ∧ (busyNext (.write 16 0x00 0)).resetIn = false ∧
    (busyNext (.write 16 0x00 0)).comesNext (.write 16 0x00 0) [] := ⟨by decide, rfl, busy_comesNext _⟩
theorem witness_LifecycleGate :
    Instr.wellFormed (.writeArgs 8) = true ∧ (early .unreset [] []).seq = .idle ∧
    (early .unreset [] []).lc ∉ gateSet (.writeArgs 8) ∧ (early .reset [] []).lc ∈ gateSet (.writeArgs 8) ∧
    (∃ t, exec (.writeArgs 8) (early .reset [] []) = .next t) ∧
    (early .failed [] []).lc ≠ .ready ∧ (early .failed [] []).inbox = [] :=
  ⟨by decide, rfl, by decide, by decide, ⟨_, rfl⟩, by decide, rfl⟩
theorem witness_RejectionsArePrecise :
    exec .readWords (panel8 [] [21]) = .next ((panel8 [] [21]).setFlag .errAlloc) ∧
    (panel8 [] [21]).flag .errAlloc = false ∧ ((panel8 [] [21]).setFlag .errAlloc).flag .errAlloc = true :=
  ⟨rfl, by decide, by decide⟩
theorem witness_AcceptedOperationsLatch : (panel8 [] []).seq = .idle ∧ ∃ t, exec .nop (panel8 [] []) = .next t :=
  ⟨rfl, _, rfl⟩
theorem witness_StatusWriteClearsOnes :
    (busyNext (.write 16 0x02 0xFF00)).resetIn = false ∧
    (busyNext (.write 16 0x02 0xFF00)).comesNext (.write 16 0x02 0xFF00) [] := ⟨rfl, busy_comesNext _⟩
theorem witness_NothingElseClearsStatusBits :
    (∃ t, exec .clear (panel8 [0] []) = .next t) ∧ (panel8 [0] []).lc = .ready ∧ (panel8 [0] []).geomKnown = true ∧
    (panel8 [0] []).statusWord.getLsbD 4 = true ∧ (panel8 [0] []).statusWord.getLsbD 5 = true ∧
    (∃ t, step { hostNext (.write 16 0x02 0x8100) with sticky := 0x81 } = .next t ∧
      t.statusWord.getLsbD 8 = false ∧ t.statusWord.getLsbD 15 = false) ∧
    ({ hostNext (.write 16 0x02 0x8100) with sticky := 0x81 } : State).statusWord.getLsbD 8 = true ∧
    ({ hostNext (.write 16 0x02 0x8100) with sticky := 0x81 } : State).statusWord.getLsbD 15 = true :=
  ⟨⟨_, rfl⟩, rfl, rfl, by decide, by decide, ⟨_, rfl, by decide, by decide⟩, by decide, by decide⟩
theorem witness_ArgWriteStoresTheWord :
    (busyNext (.write 16 0x18 7)).resetIn = false ∧
    (busyNext (.write 16 0x18 7)).comesNext (.write 16 (BitVec.ofNat 8 (0x08 + 2 * (8 : Fin 9).val)) 7) [] :=
  ⟨rfl, busy_comesNext _⟩
theorem witness_CtrlWriteSetsReversed :
    (hostNext (.write 16 0x04 0xFFFF)).resetIn = false ∧
    (hostNext (.write 16 0x04 0xFFFF)).comesNext (.write 16 0x04 0xFFFF) [] := ⟨rfl, idle_comesNext _⟩
/-- The first and the last even offset of each reserved range. -/
theorem witness_ReservedOffsetsReadZeroAndIgnoreWrites :
    (∀ off ∈ [(0x1A : BitVec 8), 0x1E, 0x48, 0x7E, 0xA8, 0xFE], off.toNat % 2 = 0 ∧
      ((0x1A ≤ off.toNat ∧ off.toNat ≤ 0x1F) ∨ (0x48 ≤ off.toNat ∧ off.toNat ≤ 0x7F) ∨ 0xA8 ≤ off.toNat)) ∧
    (hostNext (.read 16 0xA8)).comesNext (.read 16 0xA8) [] ∧
    (hostNext (.write 16 0xFE 1)).comesNext (.write 16 0xFE 1) [] :=
  ⟨by decide, idle_comesNext _, idle_comesNext _⟩
/-- The first and the last offset of each read-only range. -/
theorem witness_WritesOfReadOnlyRegistersAreIgnored :
    (∀ off ∈ [(0x06 : BitVec 8), 0x20, 0x46, 0x80, 0xA6], off.toNat % 2 = 0 ∧
      (off.toNat = 0x06 ∨ (0x20 ≤ off.toNat ∧ off.toNat < 0x48) ∨ (0x80 ≤ off.toNat ∧ off.toNat < 0xA8))) ∧
    (hostNext (.write 16 0xA6 1)).comesNext (.write 16 0xA6 1) [] := ⟨by decide, idle_comesNext _⟩
theorem witness_HostReadsReturnTheRegisters :
    (∀ off ∈ [(0x00 : BitVec 8), 0x02, 0x04, 0x06, 0x20, 0x22, 0x24, 0x26], off.toNat % 2 = 0) ∧
    (0x18 : BitVec 8).toNat = 0x08 + 2 * (8 : Fin 9).val ∧ (0x36 : BitVec 8).toNat = 0x28 + 2 * (7 : Fin 8).val ∧
    (0x46 : BitVec 8).toNat = 0x38 + 2 * (7 : Fin 8).val ∧ (0xA6 : BitVec 8).toNat = 0x80 + 2 * (19 : Fin 20).val ∧
    (hostNext (.read 16 0xA6)).comesNext (.read 16 0xA6) [] ∧ (hostNext (.read 16 0xA6)).seq = .idle :=
  ⟨by decide, by decide, by decide, by decide, by decide, idle_comesNext _, rfl⟩
theorem witness_ResultReadsWhileBusyAreDraws :
    (busyNext (.read 16 0xA6)).busy = true ∧ (busyNext (.read 16 0xA6)).comesNext (.read 16 0xA6) [] ∧
    (∀ off ∈ [(0x06 : BitVec 8), 0x20, 0x46, 0x80, 0xA6], off.toNat % 2 = 0 ∧
      (off.toNat = 0x06 ∨ (0x20 ≤ off.toNat ∧ off.toNat < 0x48) ∨ (0x80 ≤ off.toNat ∧ off.toNat < 0xA8))) ∧
    (busyNext (.read 16 0x18)).busy = true ∧ (busyNext (.read 16 0x18)).comesNext (.read 16 0x18) [] :=
  ⟨by decide, busy_comesNext _, by decide, by decide, busy_comesNext _⟩
theorem witness_MalformedHostAccessIsRefused :
    (hostNext (.write 8 0x00 0)).comesNext (.write 8 0x00 0) [] ∧ (8 : Nat) ≠ 16 ∧
    (hostNext (.read 16 0x03)).comesNext (.read 16 0x03) [] ∧ (0x03 : BitVec 8).toNat % 2 = 1 :=
  ⟨idle_comesNext _, by decide, idle_comesNext _, by decide⟩
theorem witness_ResetStateHoldsTheTable : (busyNext (.resetIn true)).comesNext (.resetIn true) [] := busy_comesNext _
theorem witness_EngineResetRestoresResetState :
    (busyNext (.resetIn true)).comesNext (.resetIn true) [] ∧
    (heldNext (.write 16 0x00 0x0020)).resetIn = true ∧
    (heldNext (.write 16 0x00 0x0020)).comesNext (.write 16 0x00 0x0020) [] ∧
    (heldNext (.resetIn false)).comesNext (.resetIn false) [] :=
  ⟨busy_comesNext _, rfl, held_comesNext _, held_comesNext _⟩
theorem witness_EveryStepKeepsTheInvariant :
    (panel8 [] []).inv = true ∧ (∃ t, step ((panel8 [] []).withFetchWord 16 0x0001) = .next t) ∧
    ((panel8 [] []).withFetchWord 16 0x0001).inv = true := ⟨by decide, ⟨_, rfl⟩, by decide⟩
theorem witness_FramebufferReadsWhatWasWritten :
    Memory.wf [(0, 1), (259199, 2)] = true ∧ (259199 : Nat) < 259200 := by decide
/-- The last pixel of the panel; one past it in each direction; the last byte of the RAM and one past it under a geometry
no run reaches. -/
theorem witness_SetPixelPacksOneNibble :
    (panel8 [] [7, 1, 3]).quiet ∧ (panel8 [] [7, 1, 3]).lc ≠ .failed ∧ (early .failed [] []).lc = .failed ∧
    ((7 : Nat) < 8 ∧ (1 : Nat) < 2 ∧ 1 * (8 / 2) + 7 / 2 < 259200) ∧ (¬ ((8 : Nat) < 8 ∧ (0 : Nat) < 2)) ∧
    (¬ ((0 : Nat) < 8 ∧ (2 : Nat) < 2)) ∧ 64799 * (8 / 2) + 6 / 2 < 259200 ∧ 259200 ≤ 64800 * (8 / 2) + 0 / 2 :=
  ⟨panel8_quiet _ _, by decide, rfl, by decide, by decide, by decide, by decide, by decide⟩
theorem witness_PixelAddressesFillTheFramebuffer :
    (8 : Word).toNat % 4 = 0 ∧ (7 : Word).toNat < (8 : Word).toNat ∧ (0 : Word).toNat < (8 : Word).toNat := by decide
theorem witness_ReadFbByteReadsOneByte :
    (early .failed [] [62591, 3]).quiet ∧ 3 * 65536 + 62591 < 259200 ∧ (early .failed [] [62592, 3]).seq = .idle ∧
    259200 ≤ 3 * 65536 + 62592 := ⟨early_quiet _ _ _, by decide, rfl, by decide⟩
theorem witness_PixelWrittenIsReadBack :
    (panel8 [] [7, 1, 5]).quiet ∧ (panel8 [] [7, 1, 5]).lc ≠ .failed ∧
    (panel8 [] [7, 1, 5]).args[0].toNat < (panel8 [] [7, 1, 5]).width.toNat ∧
    (panel8 [] [7, 1, 5]).args[1].toNat < (panel8 [] [7, 1, 5]).height.toNat :=
  ⟨panel8_quiet _ _, by decide, by decide, by decide⟩
theorem witness_NopDoesNothing :
    (early .failed [] []).quiet ∧ (busyNext (.write 16 0x00 0)).busy = true ∧
    (busyNext (.write 16 0x00 0)).resetIn = false ∧ (busyNext (.write 16 0x00 0)).comesNext (.write 16 0x00 0) [] :=
  ⟨early_quiet _ _ _, by decide, rfl, busy_comesNext _⟩
theorem witness_WaitBusyLineSamplesUntilReady :
    (early .failed [] []).seq = .idle ∧ (panel8 [] []).quiet ∧ (panel8 [] []).lc ≠ .unreset ∧
    (panel8 [] []).lc ≠ .failed ∧ (∃ rest, (panel8 [] []).env.waits = (true, []) :: rest) ∧ true ∈ [true] ∧
    true ∉ [false, false] := ⟨rfl, panel8_quiet _ _, by decide, by decide, ⟨_, rfl⟩, by decide, by decide⟩
theorem witness_PollBusyRegPollsUntilZero :
    (early .unreset [] []).lc = .unreset ∧ (panel8 [1, 1, 1] []).quiet ∧ (panel8 [1, 1, 1] []).lc ≠ .unreset ∧
    (panel8 [1, 1, 1] []).lc ≠ .failed ∧ Env.coming 1 (calm [0]) = [0] ∧
    (panel8 [1, 1, 1] []).env.polls = 2 :: [2, 2, 2] ∧
    Env.coming (2 + 1) (panel8 [1, 1, 1] []).env = List.replicate (2 + 1) 1 :=
  ⟨rfl, panel8_quiet _ _, by decide, by decide, by decide, rfl, by decide⟩
/-- The gate of the raw wire operations, from both sides. -/
theorem witness_SingleWordWritesSendOneFrame :
    (early .unreset [] []).seq = .idle ∧ (early .failed [] []).lc = .failed ∧ (early .reset [] [1]).quiet ∧
    (early .reset [] [1]).lc ≠ .unreset ∧ (early .reset [] [1]).lc ≠ .failed :=
  ⟨rfl, rfl, early_quiet _ _ _, by decide, by decide⟩
theorem witness_WriteRegisterSendsThreeFrames :
    (early .unreset [] []).seq = .idle ∧ (panel8 [] [4, 1]).quiet ∧ (panel8 [] [4, 1]).lc ≠ .unreset ∧
    (panel8 [] [4, 1]).lc ≠ .failed := ⟨rfl, panel8_quiet _ _, by decide, by decide⟩
theorem witness_SetTargetAddrSendsHighHalfFirst :
    (early .failed [] []).seq = .idle ∧ (panel8 [] [0x5678, 0x1234]).quiet ∧
    (panel8 [] [0x5678, 0x1234]).lc ≠ .unreset ∧ (panel8 [] [0x5678, 0x1234]).lc ≠ .failed :=
  ⟨rfl, panel8_quiet _ _, by decide, by decide⟩
theorem witness_WriteArgsSendsArgumentsInOrder :
    (8 : BitVec 4).toNat ≤ 8 ∧ 8 < (9 : BitVec 4).toNat ∧ (early .unreset [] []).lc = .unreset ∧
    (panel8 [] []).quiet ∧ (panel8 [] []).lc ≠ .unreset ∧ (panel8 [] []).lc ≠ .failed :=
  ⟨by decide, by decide, rfl, panel8_quiet _ _, by decide, by decide⟩
theorem witness_ReadWordStoresTheWordRead :
    (early .unreset [] []).seq = .idle ∧ (panel8 [0x1000] []).quiet ∧ (panel8 [0x1000] []).lc ≠ .unreset ∧
    (panel8 [0x1000] []).lc ≠ .failed := ⟨rfl, panel8_quiet _ _, by decide, by decide⟩
theorem witness_ReadWordsFillsTheReadBuffer :
    (early .unreset [] []).lc = .unreset ∧ (panel8 [] [20]).quiet ∧ (panel8 [] [20]).args[0].toNat ≤ 20 ∧
    (panel8 [] [0]).args[0].toNat ≤ 20 ∧ 20 < (panel8 [] [21]).args[0].toNat ∧ (panel8 [] [20]).lc ≠ .unreset ∧
    (panel8 [] [20]).lc ≠ .failed := ⟨rfl, panel8_quiet _ _, by decide, by decide, by decide, by decide, by decide⟩
theorem witness_ReadRegisterStoresTheWordRead :
    (early .failed [] []).seq = .idle ∧ (panel8 [7] [0x1224]).quiet ∧ (panel8 [7] [0x1224]).lc ≠ .unreset ∧
    (panel8 [7] [0x1224]).lc ≠ .failed := ⟨rfl, panel8_quiet _ _, by decide, by decide⟩
theorem witness_ResetPanelPulsesReset :
    (panel8 [] []).seq = .idle ∧ (panel8 [] []).lc ≠ .unreset ∧ (early .unreset [] []).quiet ∧
    (early .unreset [] []).lc = .unreset := ⟨rfl, by decide, early_quiet _ _ _, rfl⟩
theorem witness_SystemRunSendsSystemRun :
    (early .unreset [] []).seq = .idle ∧ (early .unreset [] []).lc ≠ .reset ∧ (early .reset [] []).quiet ∧
    (early .reset [] []).lc = .reset := ⟨rfl, by decide, early_quiet _ _ _, rfl⟩
theorem witness_ConfigureSendsPackEnableAndVcom :
    (early .reset [] []).seq = .idle ∧ (early .reset [] []).lc ≠ .running ∧ (early .running [] []).quiet ∧
    (early .running [] []).lc = .running := ⟨rfl, by decide, early_quiet _ _ _, rfl⟩
/-- A record for each clause: no data (also a width of 962), a panel just too large, the largest panel accepted. -/
theorem witness_GetDeviceInfoAcceptsOrFails :
    (early .running [] []).lc ≠ .configured ∧ (early .configured (record 962 540) []).quiet ∧
    (early .configured (record 962 540) []).lc = .configured ∧
    Env.coming 20 (early .configured (record 962 540) []).env = record 962 540 ∧ 962 % 4 ≠ 0 ∧
    (¬ ((964 : Nat) = 0 ∨ (540 : Nat) = 0 ∨ 964 % 4 ≠ 0) ∧ 259200 < 964 / 2 * 540) ∧
    (¬ ((960 : Nat) = 0 ∨ (540 : Nat) = 0 ∨ 960 % 4 ≠ 0) ∧ 960 / 2 * 540 ≤ 259200) :=
  ⟨by decide, early_quiet _ _ _, rfl, by decide, by decide, by decide, by decide⟩
theorem witness_SetupBringsUpAndClears :
    (early .reset [] []).lc ≠ .unreset ∧ (early .unreset (record 8 2) []).quiet ∧
    (early .unreset (record 8 2) []).lc = .unreset ∧
    Env.coming 20 (early .unreset (record 8 2) []).env = record 8 2 ∧
    (¬ ((8 : Nat) = 0 ∨ (2 : Nat) = 0 ∨ 8 % 4 ≠ 0) ∧ 8 / 2 * 2 ≤ 259200) ∧
    (¬ ((964 : Nat) = 0 ∨ (540 : Nat) = 0 ∨ 964 % 4 ≠ 0) ∧ 259200 < 964 / 2 * 540) ∧ ((0 : Nat) = 0 ∨ (2 : Nat) = 0) :=
  ⟨by decide, early_quiet _ _ _, rfl, by decide, by decide, by decide, by decide⟩
theorem witness_SetupIsTheStepwiseBringUp :
    (early .unreset (record 8 2) []).quiet ∧ (early .unreset (record 8 2) []).lc = .unreset := ⟨early_quiet _ _ _, rfl⟩
/-- The origin at `W, H` passes and one past it does not; the last source range that fits and the first that does not. -/
theorem witness_WriteRegionLoadsTheArea :
    (early .reset [] []).lc ≠ .ready ∧ (panel8 [] [8, 2, 0, 7]).quiet ∧ (panel8 [] [8, 2, 0, 7]).lc = .ready ∧
    (panel8 [] [8, 2, 0, 7]).args[0].toNat ≤ (panel8 [] [8, 2, 0, 7]).width.toNat ∧
    (panel8 [] [8, 2, 0, 7]).args[1].toNat ≤ (panel8 [] [8, 2, 0, 7]).height.toNat ∧
    (panel8 [] [9]).width.toNat < (panel8 [] [9]).args[0].toNat ∧ (2 % 4 ≠ 0 ∨ 4 % 4 ≠ 0) ∧
    259198 + 2 * (4 / 4 * 1) ≤ 259200 ∧ 259200 < 259199 + 2 * (4 / 4 * 1) :=
  ⟨by decide, panel8_quiet _ _, rfl, by decide, by decide, by decide, by decide, by decide, by decide⟩
theorem witness_UpdateRegionClipsToThePanel :
    (early .reset [] []).lc ≠ .ready ∧ (panel8 [] [8, 2, 5, 5, 6]).quiet ∧ (panel8 [] [8, 2, 5, 5, 6]).lc = .ready ∧
    (panel8 [] [8, 2, 5, 5, 6]).args[4] ≠ 8 ∧ (panel8 [] [0, 0, 0, 0, 8]).args[4] = 8 ∧
    (panel8 [] [8, 2]).args[0].toNat ≤ (panel8 [] [8, 2]).width.toNat ∧
    (panel8 [] [8, 2]).args[1].toNat ≤ (panel8 [] [8, 2]).height.toNat ∧
    (panel8 [] [0, 3]).height.toNat < (panel8 [] [0, 3]).args[1].toNat :=
  ⟨by decide, panel8_quiet _ _, rfl, by decide, by decide, by decide, by decide, by decide⟩
theorem witness_WriteDisplayStreamsTheFramebuffer :
    (early .failed [] []).quiet ∧ (early .failed [] []).lc ≠ .ready ∧ (panel8 [] []).quiet ∧ (panel8 [] []).lc = .ready ∧
    2 * ((panel8 [] []).width.toNat / 4 * (panel8 [] []).height.toNat) ≤ 259200 ∧
    259200 < 2 * (({ panel8 [] [] with panelH := 64801 } : State).width.toNat / 4
      * ({ panel8 [] [] with panelH := 64801 } : State).height.toNat) :=
  ⟨early_quiet _ _ _, by decide, panel8_quiet _ _, rfl, by decide, by decide⟩
theorem witness_WriteDisplayIsRegionThenUpdate :
    (panel8 [] []).quiet ∧ (panel8 [] []).lc = .ready ∧ (panel8 [] []).width.toNat % 4 = 0 ∧
    2 * ((panel8 [] []).width.toNat / 4 * (panel8 [] []).height.toNat) ≤ 259200 :=
  ⟨panel8_quiet _ _, rfl, by decide, by decide⟩
theorem witness_ClearStreamsTheConstantWord :
    (early .reset [] []).lc ≠ .ready ∧ (panel8 [] [1]).quiet ∧ (panel8 [] [1]).lc = .ready :=
  ⟨by decide, panel8_quiet _ _, rfl⟩
theorem witness_OnlyBringUpMovesTheLifecycle :
    ∃ t, exec .resetPanel (early .unreset [] []) = .next t ∧ t.lc ≠ (early .unreset [] []).lc := ⟨_, rfl, by decide⟩
theorem witness_OperationsWriteOnlyTheirOwnState : ∃ t, exec .readWord (panel8 [5] []) = .next t := ⟨_, rfl⟩
theorem witness_FailedIsTerminal :
    (early .failed [] []).lc = .failed ∧ (early .failed [] []).quiet ∧ Instr.wellFormed .setPixel = true ∧
    (∃ t, step { early .failed [] [] with inbox := [⟨some 0, .resetIn true⟩] } = .next t ∧ t.lc ≠ .failed) ∧
    (∃ t, exec .readFbByte (early .failed [] []) = .next t) :=
  ⟨rfl, early_quiet _ _ _, rfl, ⟨_, rfl, by decide⟩, _, rfl⟩
theorem witness_OperationsEndWithSelectInactive :
    (panel8 [] [1]).quiet ∧ (panel8 [] [1]).selOut = .inactive ∧ ∃ t, exec .writeWord (panel8 [] [1]) = .next t :=
  ⟨panel8_quiet _ _, rfl, _, rfl⟩
theorem witness_TimeoutsChangeNothingElse : ∃ t, exec .systemRun (early .reset [] []) = .next t := ⟨_, rfl⟩
theorem witness_HostWritesDoNotDisturbARunningOperation :
    (busyNext (.write 16 0x08 9)).busy = true ∧ (busyNext (.write 16 0x08 9)).resetIn = false ∧
    (busyNext (.write 16 0x08 9)).inbox = [⟨some 0, .write 16 0x08 9⟩] := ⟨by decide, rfl, rfl⟩
theorem witness_InterruptedOperationEndsTheSame :
    (panel8 [] [1]).quiet ∧ ∃ t, exec .writeWord (panel8 [] [1]) = .next t := ⟨panel8_quiet _ _, _, rfl⟩
theorem witness_HostNotationExpands : (List.replicate 8 (0 : Word)).length ≤ 8 := by decide
theorem witness_PureFunctions :
    (960 : Word).toNat ≤ (960 : Word).toNat ∧ (100 : Word).toNat ≤ (960 : Word).toNat ∧ (40 : Word).toNat % 4 = 0 := by
  decide

end Sys2Proof.Tests
end

section
/-! The framebuffer RAM's obligation (20_memory.md R80). -/

namespace Sys2Proof.Machine

/-- Settles O25 from the laws of the memory, one per clause; `Memory.read_write` compares the two addresses the other way
round. -/
theorem framebufferReadsWhatWasWritten : Obligations.FramebufferReadsWhatWasWritten := by
  intro m a n v
  refine ⟨fun b => ?readBack, Memory.read_zeroFill m n, Memory.wf_write, Memory.wf_zeroFill⟩
  case readBack => simp only [Memory.read_write, eq_comm (a := a)]

end Sys2Proof.Machine
end

section
/-! What a step does with a due host access, and the register map read backwards (10_state.md R30, R53, R54;
20_memory.md R84). -/

namespace Sys2Proof.Machine

/-! ## A due host step -/

/-- A step is the engine's turn or the next host act. -/
theorem step_cases (s : State) : step s = .next s.engineTurn ∨
    ∃ h rest, s.inbox = h :: rest ∧ step s = (s.withInbox rest).hostAct h.act := by
  rcases inbox_cases s with hb | ⟨h, rest, hb⟩
  · exact .inl (by simp only [step, State.advance, hb])
  · by_cases hdue : (s.busy && decide (h.after ≠ some 0)) = true
    · exact .inl (by simp only [step, State.advance, hb, if_pos hdue])
    · exact .inr ⟨h, rest, hb, by simp only [step, State.advance, hb, if_neg hdue]⟩

/-- A due host step is the step. -/
theorem step_of_comesNext {s : State} {a : HostAct} {rest : List HostStep} (h : s.comesNext a rest) :
    step s = (s.withInbox rest).hostAct a := by
  obtain ⟨after, hi, hd⟩ := h
  have hdue : (s.busy && decide (after ≠ some 0)) = false := by
    rcases hd with hs | rfl
    · simp [State.busy_of_idle hs]
    · simp
  simp only [step, State.advance, hi, hdue, Bool.false_eq_true, if_false]

theorem accessRefusal_even {off : BitVec 8} (h : off.toNat % 2 = 0) : accessRefusal 16 off = none := by
  simp [accessRefusal, h]

theorem accessRefusal_eq_none {width : Nat} {off : BitVec 8} (h : accessRefusal width off = none) : width = 16 := by
  by_contra hw
  simp [accessRefusal, hw] at h

/-- A due read of 16 bits at an even offset. -/
theorem step_read {s : State} {off : BitVec 8} {rest : List HostStep} (h : s.comesNext (.read 16 off) rest)
    (he : off.toNat % 2 = 0) : step s = .next ((s.withInbox rest).hostRead off) := by
  simp [step_of_comesNext h, State.hostAct, accessRefusal_even he]

/-- A due write of 16 bits at an even offset, out of reset. -/
theorem step_write {s : State} {off : BitVec 8} {w : Word} {rest : List HostStep}
    (h : s.comesNext (.write 16 off w) rest) (he : off.toNat % 2 = 0) (hr : s.resetIn = false) :
    step s = (s.withInbox rest).hostWrite off w := by
  simp [step_of_comesNext h, State.hostAct, accessRefusal_even he, hr]

/-- A write is lost while RESET_IN is asserted (70_reset_and_hazards.md R340). -/
theorem step_write_in_reset {s : State} {off : BitVec 8} {w : Word} {rest : List HostStep}
    (h : s.comesNext (.write 16 off w) rest) (he : off.toNat % 2 = 0) (hr : s.resetIn = true) :
    step s = .next (s.withInbox rest) := by
  simp [step_of_comesNext h, State.hostAct, accessRefusal_even he, hr]

/-- A read that is no draw returns the register (10_state.md R54). -/
theorem step_read_exact {s : State} {off : BitVec 8} {rest : List HostStep} {r : HostReg}
    (h : s.comesNext (.read 16 off) rest) (he : off.toNat % 2 = 0) (hreg : hostReg off = r)
    (hx : s.seq = .idle ∨ drawnWhileBusy r = false) :
    step s = .next { s.withInbox rest with busReads := (off, s.regValue r) :: s.busReads } := by
  have hnodraw : (s.busy && drawnWhileBusy r) = false := by
    rcases hx with hs | hd
    · simp [State.busy_of_idle hs]
    · simp [hd]
  have hb : (s.withInbox rest).busy = s.busy := rfl
  have hv : (s.withInbox rest).regValue r = s.regValue r := by cases r <;> rfl
  simp [step_read h he, State.hostRead, hreg, hb, hv, hnodraw]

/-- A read of a result register while BUSY is a draw (10_state.md R54). -/
theorem step_read_draw {s : State} {off : BitVec 8} {rest : List HostStep}
    (h : s.comesNext (.read 16 off) rest) (he : off.toNat % 2 = 0) (hb : s.busy = true)
    (hd : drawnWhileBusy (hostReg off) = true) :
    step s = .next { s.withInbox rest with
      busReads := (off, Config.busyRead s.readDraws) :: s.busReads, readDraws := s.readDraws + 1 } := by
  have hb' : (s.withInbox rest).busy = true := hb
  simp [step_read h he, State.hostRead, hb', hd]

/-! ## The register map -/

theorem offset_eq {off : BitVec 8} {n : Nat} (h : off.toNat = n) : off = BitVec.ofNat 8 n := by
  rw [← h, BitVec.ofNat_toNat, BitVec.setWidth_eq]

theorem hostReg_arg (i : Fin 9) : hostReg (BitVec.ofNat 8 (0x08 + 2 * i.val)) = .arg i := by
  revert i
  decide

theorem hostReg_fwver (i : Fin 8) : hostReg (BitVec.ofNat 8 (0x28 + 2 * i.val)) = .fwver i := by
  revert i
  decide

theorem hostReg_lutver (i : Fin 8) : hostReg (BitVec.ofNat 8 (0x38 + 2 * i.val)) = .lutver i := by
  revert i
  decide

theorem hostReg_rdbuf (i : Fin 20) : hostReg (BitVec.ofNat 8 (0x80 + 2 * i.val)) = .rdbuf i := by
  revert i
  decide

/-- The reserved ranges (10_state.md R53). -/
theorem hostReg_reserved {off : BitVec 8}
    (h : (0x1A ≤ off.toNat ∧ off.toNat ≤ 0x1F) ∨ (0x48 ≤ off.toNat ∧ off.toNat ≤ 0x7F) ∨ 0xA8 ≤ off.toNat) :
    hostReg off = .reserved := by
  revert off
  decide

/-- The registers an operation's results stand in (10_state.md R54). -/
theorem drawnWhileBusy_hostReg {off : BitVec 8} (he : off.toNat % 2 = 0)
    (h : off.toNat = 0x06 ∨ (0x20 ≤ off.toNat ∧ off.toNat < 0x48) ∨ (0x80 ≤ off.toNat ∧ off.toNat < 0xA8)) :
    drawnWhileBusy (hostReg off) = true := by
  revert off
  decide

/-- STATUS stands at one offset only. -/
theorem offset_of_hostReg_status {off : BitVec 8} (h : hostReg off = .status) : off = 0x02 := by
  revert off
  decide

end Sys2Proof.Machine
end

section
/-! The fields of STATUS one by one, and what setting and clearing flags does to them (10_state.md R33 to R36). -/

namespace Sys2Proof.Machine

@[simp] theorem State.busy_setFlag (s : State) (c : Cause) : (s.setFlag c).busy = s.busy := rfl

@[simp] theorem State.readyBit_setFlag (s : State) (c : Cause) : (s.setFlag c).readyBit = s.readyBit := rfl

/-- STATUS bit by bit, from BUSY up (10_state.md R33 to R36). -/
theorem State.getLsbD_statusWord (s : State) (k : Nat) :
    s.statusWord.getLsbD k =
      if k < 1 then (BitVec.ofBool s.busy).getLsbD k
      else if k < 4 then s.lc.code.getLsbD (k - 1)
      else if k < 5 then (BitVec.ofBool s.readyBit).getLsbD (k - 4)
      else if k < 6 then (BitVec.ofBool s.geomKnown).getLsbD (k - 5)
      else if k < 8 then false
      else s.sticky.getLsbD (k - 8) := by
  have hlc : k - 1 < 3 ↔ k < 4 := by omega
  have hready : k - 4 < 1 ↔ k < 5 := by omega
  have hgeom : k - 5 < 1 ↔ k < 6 := by omega
  have hzero : k - 6 < 2 ↔ k < 8 := by omega
  simp only [State.statusWord, BitVec.getLsbD_append]
  simp only [Nat.sub_sub, Nat.reduceAdd, hlc, hready, hgeom, hzero, BitVec.getLsbD_zero]

theorem State.statusWord_busy (s : State) : s.statusWord.getLsbD 0 = decide (s.seq ≠ .idle) := by
  rw [State.getLsbD_statusWord]
  simp [State.busy]

theorem State.statusWord_ready (s : State) : s.statusWord.getLsbD 4 = decide (s.lc = .ready) := by
  rw [State.getLsbD_statusWord]
  simp [State.readyBit]

theorem State.statusWord_geomKnown (s : State) : s.statusWord.getLsbD 5 = s.geomKnown := by
  rw [State.getLsbD_statusWord]
  simp

theorem State.statusWord_lc (s : State) : s.statusWord.toNat / 2 % 8 = s.lc.code.toNat := by
  have h : s.statusWord.extractLsb' 1 3 = s.lc.code := by
    ext i hi
    have hbit : 1 + i < 4 := by omega
    rw [BitVec.getElem_extractLsb', State.getLsbD_statusWord]
    simp [hbit, BitVec.getLsbD_eq_getElem hi]
  rw [← h]
  simp [Nat.shiftRight_eq_div_pow]

/-- A flag is the STATUS bit of its cause's code (60_exceptions.md R301). -/
theorem State.statusWord_flag (s : State) (c : Cause) : s.statusWord.getLsbD c.code = s.flag c :=
  s.statusWord_sticky c.code (by cases c <;> decide)

theorem getLsbD_stickyMask (c : Cause) (k : Nat) : (stickyMask c).getLsbD k = decide (k = c.code - 8) := by
  have hc : c.code - 8 < 8 := by cases c <;> decide
  rw [stickyMask, BitVec.getLsbD_shiftLeft, Bool.eq_iff_iff]
  simp
  omega

/-- Recording a cause sets its own bit of STATUS and no other (60_exceptions.md R301, R306). -/
theorem State.getLsbD_statusWord_setFlag (s : State) (c : Cause) (j : Nat) :
    (s.setFlag c).statusWord.getLsbD j = (decide (j = c.code) || s.statusWord.getLsbD j) := by
  have hcode : 8 ≤ c.code := by cases c <;> decide
  rcases Nat.lt_or_ge j 8 with hlow | hhigh
  case inl =>
    have hne : j ≠ c.code := by omega
    simp [State.getLsbD_statusWord, hlow, hne]
  case inr =>
    have hbit : j - 8 = c.code - 8 ↔ j = c.code := by omega
    simp [State.statusWord_sticky _ j hhigh, getLsbD_stickyMask, hbit, Bool.or_comm]

/-- Each of STATUS bits 15:8 is the flag of a cause (60_exceptions.md R301). -/
theorem exists_cause_of_bit {k : Nat} (h8 : 8 ≤ k) (h15 : k ≤ 15) : ∃ c : Cause, c.code = k := by
  have hcode : ∀ j : Fin 8, ∃ c : Cause, c.code = 8 + j.val := by
    intro j
    fin_cases j
    exacts [⟨.warnTimeout, rfl⟩, ⟨.errIllegal, rfl⟩, ⟨.errOverrun, rfl⟩, ⟨.errState, rfl⟩, ⟨.errBounds, rfl⟩,
      ⟨.errAlign, rfl⟩, ⟨.errAlloc, rfl⟩, ⟨.errDevinfo, rfl⟩]
  obtain ⟨c, hc⟩ := hcode ⟨k - 8, by omega⟩
  exact ⟨c, by simp only [hc]; omega⟩

theorem State.flag_setFlag_of_flag {s : State} {d : Cause} (c : Cause) (h : s.flag d = true) :
    (s.setFlag c).flag d = true := by
  simp [State.flag_setFlag, h]

/-- A STATUS write clears the bits of 15:8 written as 1 (10_state.md R36). -/
theorem State.getLsbD_statusWord_clearFlags (s : State) (w : Word) {k : Nat} (h8 : 8 ≤ k) (h15 : k ≤ 15) :
    (s.clearFlags w).statusWord.getLsbD k = (s.statusWord.getLsbD k && !w.getLsbD k) := by
  have hk : k - 8 < 8 := by omega
  have hback : 8 + (k - 8) = k := by omega
  simp [State.statusWord_sticky _ k h8, hk, hback]

theorem State.flag_clearFlags (s : State) (w : Word) (c : Cause) :
    (s.clearFlags w).flag c = (s.flag c && !w.getLsbD c.code) := by
  rw [← State.statusWord_flag, ← State.statusWord_flag,
    State.getLsbD_statusWord_clearFlags s w (by cases c <;> decide) (by cases c <;> decide)]

end Sys2Proof.Machine
end

section
/-! What the engine's turn keeps, and which operations' scripts contain the micro-steps that write a piece of state
(10_state.md R37, R42 to R51). -/

namespace Sys2Proof.Machine

/-! ## Facts the engine keeps -/

/-- A property of the state that every micro-step keeps and that does not look at SEQ or the coming host steps. -/
structure KeptByEngine (P : State → Prop) : Prop where
  perform : ∀ s m, P s → P (s.perform m)
  withSeq : ∀ s q, P s → P (s.withSeq q)
  withInbox : ∀ s ib, P s → P (s.withInbox ib)

theorem KeptByEngine.microStep {P : State → Prop} (hP : KeptByEngine P) {s : State} (h : P s) : P s.microStep := by
  unfold State.microStep
  split
  · exact h
  · exact hP.withSeq _ _ h
  · exact hP.withSeq _ _ (hP.perform _ _ h)

theorem KeptByEngine.microSteps {P : State → Prop} (hP : KeptByEngine P) (n : Nat) {s : State} (h : P s) :
    P (State.microSteps n s) := by
  induction n generalizing s with
  | zero => exact h
  | succ n ih => exact ih (hP.microStep h)

theorem KeptByEngine.engineTurn {P : State → Prop} (hP : KeptByEngine P) {s : State} (h : P s) : P s.engineTurn := by
  rcases inbox_cases s with hb | ⟨g, rest, hb⟩
  · rw [State.engineTurn_nil s hb]
    exact hP.microSteps _ h
  · rw [State.engineTurn_cons s g rest hb]
    exact hP.withInbox _ _ (hP.microSteps _ h)

theorem State.geomKnown_perform (s : State) (m : Micro) (h : s.geomKnown = true) : (s.perform m).geomKnown = true := by
  cases m
  case setGeomKnown => rfl
  case waitReady timedOut => cases timedOut <;> exact h
  all_goals exact h

/-- The engine's turn clears no sticky bit (10_state.md R37). -/
theorem State.flag_engineTurn {s : State} {c : Cause} (h : s.flag c = true) : s.engineTurn.flag c = true :=
  KeptByEngine.engineTurn (P := fun s => s.flag c = true)
    ⟨fun s m => State.flag_perform s m c, fun _ _ h => h, fun _ _ h => h⟩ h

/-- The engine's turn does not forget the geometry (10_state.md R37). -/
theorem State.geomKnown_engineTurn {s : State} (h : s.geomKnown = true) : s.engineTurn.geomKnown = true :=
  KeptByEngine.engineTurn (P := fun s => s.geomKnown = true)
    ⟨State.geomKnown_perform, fun _ _ h => h, fun _ _ h => h⟩ h

/-- A part of the state that none of some micro-steps touches is as it was after them. -/
theorem State.performAll_field {α : Type} (f : State → α) {ms : List Micro}
    (h : ∀ m ∈ ms, ∀ s : State, f (s.perform m) = f s) (s : State) : f (s.performAll ms) = f s := by
  induction ms generalizing s with
  | nil => rfl
  | cons m ms ih =>
    rw [State.performAll_cons, ih fun n hn => h n (List.mem_cons_of_mem _ hn), h m (List.mem_cons_self ..)]

/-- A part of the state other than SEQ, the latches, the environment and the inbox is as it was after a launch, if no
micro-step of the script touches it. -/
theorem State.launch_field {α : Type} (f : State → α) {s : State} {op : Instr} {script : Script} {Q : Micro → Prop}
    (hscript : Only script Q) (h : ∀ m, Q m → ∀ s : State, f (s.perform m) = f s)
    (hf : ∀ (s : State) e q ib, f (((s.latched e).withSeq q).withInbox ib) = f s) :
    f (s.launch op script) = f s := by
  rw [State.launch_eq, hf]
  exact State.performAll_field f (fun m hm => h m (hscript _ m (List.mem_of_mem_take hm))) s

@[simp] theorem State.resetIn_performAll (s : State) (ms : List Micro) : (s.performAll ms).resetIn = s.resetIn :=
  State.performAll_field State.resetIn (fun m _ s => s.resetIn_perform m) s

@[simp] theorem State.fbEpoch_performAll (s : State) (ms : List Micro) : (s.performAll ms).fbEpoch = s.fbEpoch :=
  State.performAll_field State.fbEpoch (fun m _ s => s.fbEpoch_perform m) s

@[simp] theorem State.busReads_performAll (s : State) (ms : List Micro) : (s.performAll ms).busReads = s.busReads :=
  State.performAll_field State.busReads (fun m _ s => s.busReads_perform m) s

@[simp] theorem State.readDraws_performAll (s : State) (ms : List Micro) : (s.performAll ms).readDraws = s.readDraws :=
  State.performAll_field State.readDraws (fun m _ s => s.readDraws_perform m) s

/-! ## Which micro-step touches what -/

theorem State.rdata_perform {m : Micro} (h : ∀ w, m ≠ .setRdata w) (s : State) : (s.perform m).rdata = s.rdata := by
  cases m
  case setRdata w => exact absurd rfl (h w)
  case waitReady timedOut => cases timedOut <;> rfl
  all_goals rfl

theorem State.rdbuf_perform {m : Micro} (h : ∀ i w, m ≠ .setRdbuf i w) (s : State) :
    (s.perform m).rdbuf = s.rdbuf := by
  cases m
  case setRdbuf i w => exact absurd rfl (h i w)
  case waitReady timedOut => cases timedOut <;> rfl
  all_goals rfl

theorem State.fb_perform {m : Micro} (h : ∀ a v, m ≠ .writeFb a v) (s : State) : (s.perform m).fb = s.fb := by
  cases m
  case writeFb a v => exact absurd rfl (h a v)
  case waitReady timedOut => cases timedOut <;> rfl
  all_goals rfl

theorem State.lc_perform {m : Micro} (h : ∀ l, m ≠ .setLc l) (s : State) : (s.perform m).lc = s.lc := by
  cases m
  case setLc l => exact absurd rfl (h l)
  case waitReady timedOut => cases timedOut <;> rfl
  all_goals rfl

theorem State.rstOut_perform {m : Micro} (h : ∀ l, m ≠ .rst l) (s : State) : (s.perform m).rstOut = s.rstOut := by
  cases m
  case rst l => exact absurd rfl (h l)
  case waitReady timedOut => cases timedOut <;> rfl
  all_goals rfl

/-- The device-info registers and GEOM_KNOWN (10_state.md R35, R45). -/
def State.deviceInfo (s : State) : Word × Word × Word × Word × Vector Word 8 × Vector Word 8 × Bool :=
  (s.panelW, s.panelH, s.imgbufL, s.imgbufH, s.fwver, s.lutver, s.geomKnown)

theorem State.deviceInfo_perform {m : Micro} (h : m.setsInfo = false) (hg : m ≠ .setGeomKnown) (s : State) :
    (s.perform m).deviceInfo = s.deviceInfo := by
  cases m
  case setGeomKnown => exact absurd rfl hg
  case waitReady timedOut => cases timedOut <;> rfl
  case setPanelW | setPanelH | setImgbufL | setImgbufH | setFwver | setLutver => cases h
  all_goals rfl

/-! ## Which operations contain which micro-step -/

/-- `mayContain` read backwards: the operations whose scripts may contain a state update. -/
def Micro.issuers : Micro → List Instr
  | .setRdata _ => [.readWord, .readRegister, .readFbByte]
  | .setRdbuf _ _ => [.readWords, .getDeviceInfo, .setup]
  | .writeFb _ _ => [.setPixel, .getDeviceInfo, .setup]
  | .setLc _ => [.resetPanel, .systemRun, .configure, .getDeviceInfo, .setup]
  | .setPanelW _ | .setPanelH _ | .setImgbufL _ | .setImgbufH _ | .setFwver _ _ | .setLutver _ _ | .setGeomKnown
  | .setSticky _ => [.getDeviceInfo, .setup]
  | .sel _ | .tx _ | .rx _ | .waitReady _ | .rst _ | .delay _ | .pollTimeout => []

theorem Micro.issuers_of_setsInfo {m : Micro} (h : m.setsInfo = true) : m.issuers = [.getDeviceInfo, .setup] := by
  cases m
  case setPanelW | setPanelH | setImgbufL | setImgbufH | setFwver | setLutver => rfl
  all_goals cases h

theorem Micro.event_of_setsInfo {m : Micro} (h : m.setsInfo = true) : m.event = none := by
  cases m
  case setPanelW | setPanelH | setImgbufL | setImgbufH | setFwver | setLutver => rfl
  all_goals cases h

/-- A state update stands in the scripts of its issuers only. -/
theorem mem_issuers {i : Instr} {m : Micro} (hm : m.event = none) (h : mayContain i m) : i ∈ m.issuers := by
  have hwire : ¬ m.isWire := by simp [Micro.isWire, hm]
  cases i <;> simp only [mayContain, hwire, false_or] at h
  case readWord | readRegister | readFbByte =>
    obtain ⟨w, rfl⟩ := h
    simp [Micro.issuers]
  case readWords | setPixel =>
    obtain ⟨a, v, rfl⟩ := h
    simp [Micro.issuers]
  case resetPanel | systemRun | configure =>
    subst h
    simp [Micro.issuers]
  case getDeviceInfo =>
    rcases h with ⟨k, w, rfl⟩ | ⟨c, rfl, _⟩ | rfl | rfl | hinfo | rfl | ⟨a, v, rfl⟩
    case inr.inr.inr.inr.inl => simp [Micro.issuers_of_setsInfo hinfo]
    all_goals simp [Micro.issuers]
  case setup =>
    rcases h with ⟨l, rfl⟩ | ⟨k, w, rfl⟩ | ⟨c, rfl, _⟩ | hinfo | rfl | ⟨a, v, rfl⟩
    case inr.inr.inr.inl => simp [Micro.issuers_of_setsInfo hinfo]
    all_goals simp [Micro.issuers]

/-- An operation the gate allows in READY does not move the lifecycle (60_exceptions.md R303). -/
theorem not_mayContain_setLc {i : Instr} (hg : gateAllows i .ready = true) (l : Lifecycle) :
    ¬ mayContain i (.setLc l) := by
  intro h
  have hi : i ∈ [.resetPanel, .systemRun, .configure, .getDeviceInfo, .setup] := mem_issuers (m := .setLc l) rfl h
  simp only [List.mem_cons, List.not_mem_nil, or_false] at hi
  rcases hi with rfl | rfl | rfl | rfl | rfl <;> cases hg

/-! ## RST_OUT: the reset primitive stands in two scripts only -/

/-- Not the micro-step that drives RST_OUT. -/
def Micro.notRst (m : Micro) : Prop := ∀ l, m ≠ .rst l

theorem only_wire_notRst {ps : List Prim} (h : ∀ l, Prim.rst l ∉ ps) : Only (wire ps) Micro.notRst := by
  intro e
  induction ps generalizing e with
  | nil => simp [wire]
  | cons p ps ih =>
    have hps : ∀ l, Prim.rst l ∉ ps := fun l hl => h l (List.mem_cons_of_mem _ hl)
    intro m hm
    cases p
    case rst l => exact absurd (List.mem_cons_self ..) (h l)
    all_goals
      simp only [wire, List.mem_cons] at hm
      rcases hm with rfl | hm
      · exact fun l hl => by cases hl
      · exact ih hps _ m hm

@[simp] theorem rst_notMem_commandFrame (c : Word) (l : RstLevel) : Prim.rst l ∉ commandFrame c := by
  simp [commandFrame]

@[simp] theorem rst_notMem_writeFrame (d : Word) (l : RstLevel) : Prim.rst l ∉ writeFrame d := by simp [writeFrame]

@[simp] theorem rst_notMem_argsFrames (c : Word) (args : List Word) (l : RstLevel) :
    Prim.rst l ∉ argsFrames c args := by
  simp [argsFrames]

@[simp] theorem rst_notMem_writeRegisterFrames (a v : Word) (l : RstLevel) : Prim.rst l ∉ writeRegisterFrames a v := by
  simp [writeRegisterFrames]

@[simp] theorem rst_notMem_targetAddrFrames (a : BitVec 32) (l : RstLevel) : Prim.rst l ∉ targetAddrFrames a := by
  simp [targetAddrFrames]

@[simp] theorem rst_notMem_bulkReadFrame (n : Nat) (l : RstLevel) : Prim.rst l ∉ bulkReadFrame false n := by
  simp [bulkReadFrame, dataPhase, List.mem_replicate]

@[simp] theorem rst_notMem_readRegisterFrames (a : Word) (l : RstLevel) : Prim.rst l ∉ readRegisterFrames a := by
  simp [readRegisterFrames, readFrame]

@[simp] theorem rst_notMem_streamFrame (ws : List Word) (l : RstLevel) : Prim.rst l ∉ streamFrame false ws := by
  simp [streamFrame, dataPhase]

theorem only_updates_nil (Q : Micro → Prop) : Only (updates []) Q := only_updates (by simp)

theorem pollBusyRegister_notRst (t : Word) : Only (pollBusyRegister t) Micro.notRst := by
  have hread : Only (wire (readRegisterFrames Config.A_LUTAFSR)) Micro.notRst := only_wire_notRst (by simp)
  have hreads : ∀ n, Only (pollReadsUpTo n) Micro.notRst := by
    intro n
    induction n with
    | zero =>
      refine only_thenReceived hread fun ws => ?_
      split
      · exact only_updates_nil _
      · exact only_updates (by simp [Micro.notRst])
    | succ n ih =>
      refine only_thenReceived hread fun ws => ?_
      split
      · exact only_updates_nil _
      · exact ih
  exact fun e => hreads _ _

theorem areaLoad_notRst (img : BitVec 32) (x y w h : Word) (pixels : List Word) :
    Only (areaLoad img x y w h pixels) Micro.notRst :=
  only_andThen (pollBusyRegister_notRst 0) (only_wire_notRst (by simp [Config.P_WAIT_EACH_STREAM_WORD]))

theorem updateArea_notRst (pw ph : Word) (img : BitVec 32) (x y w h mode : Word) :
    Only (updateArea pw ph img x y w h mode) Micro.notRst :=
  only_andThen (pollBusyRegister_notRst 0) (only_wire_notRst (by simp))

theorem clearPanel_notRst (pw ph : Word) (img : BitVec 32) (reversed init : Bool) :
    Only (clearPanel pw ph img reversed init) Micro.notRst := by
  refine only_andThen (areaLoad_notRst _ _ _ _ _ _) ?_
  split
  · exact updateArea_notRst _ _ _ _ _ _ _ _
  · exact only_updates_nil _

theorem copyOutFrom_notRst {k : Nat} {ws : List Word} {m : Micro} (h : m ∈ copyOutFrom k ws) : m.notRst := by
  rintro l rfl
  obtain ⟨_, _, h⟩ := mem_copyOutFrom h
  cases h

theorem deviceInfoUpdates_notRst {r : List Word} {m : Micro} (h : m ∈ deviceInfoUpdates r) : m.notRst := by
  rintro l rfl
  rcases List.mem_append.1 h with h | h
  · exact copyOutFrom_notRst h l rfl
  · split at h
    · simp at h
    · simp only [List.mem_append, List.mem_singleton, reduceCtorEq, or_false] at h
      rcases h with h | h
      · cases mem_infoUpdates h
      · obtain ⟨_, _, h⟩ := mem_zeroFillUpdates h
        cases h

/-- Only RESET_PANEL and SETUP drive RST_OUT (10_state.md R49, 43_init.md R211). -/
theorem script_notRst {i : Instr} {s : State} {l : Latches} {sc : Script} (h : bodyOf i s l = .ok sc)
    (hreset : i ≠ .resetPanel) (hsetup : i ≠ .setup) : Only sc Micro.notRst := by
  cases i <;> simp only [bodyOf] at h
  case resetPanel => exact absurd rfl hreset
  case setup => exact absurd rfl hsetup
  case nop => cases h; exact only_updates_nil _
  case waitBusyLine | writeCommand | writeWord | writeRegister | setTargetAddr | writeArgs =>
    cases h
    exact only_wire_notRst (by simp)
  case pollBusyReg => cases h; exact pollBusyRegister_notRst _
  case readWord | readRegister =>
    cases h
    exact only_thenReceived (only_wire_notRst (by simp [readFrame])) fun ws => only_updates (by simp [Micro.notRst])
  case readWords =>
    split at h <;> cases h
    exact only_thenReceived (only_wire_notRst (by simp [Config.P_WAIT_EACH_STREAM_WORD])) fun ws =>
      only_updates fun m hm => copyOutFrom_notRst hm
  case systemRun | configure =>
    cases h
    exact only_andThen (only_wire_notRst (by simp)) (only_updates (by simp [Micro.notRst]))
  case getDeviceInfo =>
    cases h
    exact only_thenReceived (only_wire_notRst (by simp [Config.P_WAIT_EACH_STREAM_WORD])) fun r =>
      only_andThen (only_updates fun m hm => deviceInfoUpdates_notRst hm) (only_updates_nil _)
  case setPixel =>
    split at h
    · cases h; exact only_updates_nil _
    split at h <;> cases h
    exact only_updates (by simp [Micro.notRst])
  case readFbByte =>
    split at h <;> cases h
    exact only_updates (by simp [Micro.notRst])
  case writeRegion =>
    split at h
    · cases h; exact only_updates_nil _
    split at h
    · cases h
    split at h <;> cases h
    exact areaLoad_notRst _ _ _ _ _ _
  case updateRegion =>
    split at h
    · cases h; exact only_updates_nil _
    split at h <;> cases h
    exact updateArea_notRst _ _ _ _ _ _ _ _
  case writeDisplay =>
    split at h
    · cases h; exact only_updates_nil _
    split at h <;> cases h
    exact only_andThen (areaLoad_notRst _ _ _ _ _ _) (updateArea_notRst _ _ _ _ _ _ _ _)
  case clear => cases h; exact clearPanel_notRst _ _ _ _ _

end Sys2Proof.Machine
end

section
/-! Obligations about the operations: what they latch, write and keep (10_state.md R31, R37, R42 to R51). -/

namespace Sys2Proof.Machine

/-- Settles O10: a next state of exec is a rejection, which touches its flag alone, or a launch, which latches. -/
theorem acceptedOperationsLatch : Obligations.AcceptedOperationsLatch := by
  intro i s t _ h
  rcases exec_next h with ⟨c, rfl, _⟩ | ⟨_, _, _, script, _, rfl⟩
  · exact .inr ⟨rfl, c, rfl⟩
  · left
    simp [State.launch_eq, State.latchNow]

/-- Settles O52. A rejection sets a flag only; a launch performs micro-steps of the operation's script, and the
micro-steps that write a piece of state stand in the scripts of the operations named only. -/
theorem operationsWriteOnlyTheirOwnState : Obligations.OperationsWriteOnlyTheirOwnState := by
  intro i s t h
  rcases exec_next h with ⟨c, rfl, _⟩ | ⟨_, _, _, script, hb, rfl⟩
  case inl => simp
  case inr =>
    have hscript := script_mayContain hb
    refine ⟨fun h1 h2 h3 => ?rdata, fun h1 h2 h3 => ?rdbuf, fun h1 h2 => ?info, fun h1 h2 h3 => ?fb,
      fun h1 h2 => ?rstOut, ?others⟩
    case rdata =>
      refine State.launch_field State.rdata hscript (fun m hm => State.rdata_perform ?_) fun _ _ _ _ => rfl
      rintro w rfl
      simpa [Micro.issuers, h1, h2, h3] using mem_issuers rfl hm
    case rdbuf =>
      refine State.launch_field State.rdbuf hscript (fun m hm => State.rdbuf_perform ?_) fun _ _ _ _ => rfl
      rintro k w rfl
      simpa [Micro.issuers, h1, h2, h3] using mem_issuers rfl hm
    case info =>
      have hinfo : (s.launch i script).deviceInfo = s.deviceInfo := by
        refine State.launch_field State.deviceInfo hscript (fun m hm => State.deviceInfo_perform ?_ ?_)
          fun _ _ _ _ => rfl
        · by_contra hsets
          rw [Bool.not_eq_false] at hsets
          simpa [Micro.issuers_of_setsInfo hsets, h1, h2] using mem_issuers (Micro.event_of_setsInfo hsets) hm
        · rintro rfl
          simpa [Micro.issuers, h1, h2] using mem_issuers rfl hm
      simpa [State.deviceInfo] using hinfo
    case fb =>
      refine State.launch_field State.fb hscript (fun m hm => State.fb_perform ?_) fun _ _ _ _ => rfl
      rintro a v rfl
      simpa [Micro.issuers, h1, h2, h3] using mem_issuers rfl hm
    case rstOut =>
      exact State.launch_field State.rstOut (script_notRst hb h1 h2) (fun m hm => State.rstOut_perform hm)
        fun _ _ _ _ => rfl
    case others => simp [State.launch_eq]

/-! ## STATUS bits are kept -/

/-- No operation clears a flag (10_state.md R37). -/
theorem exec_flag {i : Instr} {s t : State} {c : Cause} (h : exec i s = .next t) (hc : s.flag c = true) :
    t.flag c = true := by
  rcases exec_next h with ⟨d, rfl, _⟩ | ⟨_, _, _, script, _, rfl⟩
  · exact State.flag_setFlag_of_flag d hc
  · exact State.flag_engineTurn (s := (s.latched _).withSeq _) hc

/-- No operation forgets the geometry (10_state.md R37). -/
theorem exec_geomKnown {i : Instr} {s t : State} (h : exec i s = .next t) (hg : s.geomKnown = true) :
    t.geomKnown = true := by
  rcases exec_next h with ⟨d, rfl, _⟩ | ⟨_, _, _, script, _, rfl⟩
  · exact hg
  · exact State.geomKnown_engineTurn (s := (s.latched _).withSeq _) hg

/-- No operation leaves READY: the gate keeps the bring-up out there (60_exceptions.md R303). -/
theorem exec_ready {i : Instr} {s t : State} (h : exec i s = .next t) (hr : s.lc = .ready) : t.lc = .ready := by
  rcases exec_next h with ⟨d, rfl, _⟩ | ⟨_, hgate, _, script, hb, rfl⟩
  · exact hr
  · rw [hr] at hgate
    rw [State.launch_field State.lc (script_mayContain hb) (fun m hm => State.lc_perform ?_) fun _ _ _ _ => rfl, hr]
    rintro l rfl
    exact not_mayContain_setLc hgate l hm

/-- A write of CMD clears no flag, whether its command is dropped, illegal or run (10_state.md R32, R37). -/
theorem State.writeCmd_flag {s t : State} {w : Word} {c : Cause} (h : s.writeCmd w = .next t) (hs : s.flag c = true) :
    t.flag c = true := by
  unfold State.writeCmd at h
  split at h
  · cases h
    exact State.flag_setFlag_of_flag (s := s.withCmd w) _ hs
  · split at h
    · cases h
      exact State.flag_setFlag_of_flag (s := s.withCmd w) _ hs
    · exact exec_flag h hs

/-- A host write clears a flag only if it writes STATUS with the flag's bit set (10_state.md R36, R37). -/
theorem State.hostWrite_clears_flag {s t : State} {off : BitVec 8} {w : Word} {c : Cause}
    (h : s.hostWrite off w = .next t) (hs : s.flag c = true) (ht : t.flag c = false) :
    off = 0x02 ∧ w.getLsbD c.code = true := by
  have hkept : t.flag c = true → off = 0x02 ∧ w.getLsbD c.code = true := fun hk => by simp [ht] at hk
  unfold State.hostWrite at h
  split at h
  case h_1 => exact hkept (State.writeCmd_flag h hs)
  case h_2 hreg =>
    cases h
    exact ⟨offset_of_hostReg_status hreg, by simpa [State.flag_clearFlags, hs] using ht⟩
  all_goals
    cases h
    exact hkept hs

/-- A host act clears a flag only if it resets the engine or writes STATUS with the flag's bit set. -/
theorem State.hostAct_clears_flag {s t : State} {a : HostAct} {c : Cause} (h : s.hostAct a = .next t)
    (hs : s.flag c = true) (ht : t.flag c = false) :
    a = .resetIn true ∨ ∃ w, a = .write 16 0x02 w ∧ w.getLsbD c.code = true := by
  have hlost : t.flag c ≠ true := by simp [ht]
  cases a with
  | resetIn asserted =>
    cases asserted
    · cases h
      exact absurd hs hlost
    · exact .inl rfl
  | read width off =>
    simp only [State.hostAct] at h
    split at h
    · cases h
    · cases h
      refine absurd ?_ hlost
      unfold State.hostRead
      split <;> exact hs
  | write width off w =>
    simp only [State.hostAct] at h
    split at h
    · cases h
    · next hnone =>
      split at h
      · cases h
        exact absurd hs hlost
      · obtain ⟨rfl, hbit⟩ := State.hostWrite_clears_flag h hs ht
        exact .inr ⟨w, by rw [accessRefusal_eq_none hnone], hbit⟩

/-- Settles O12. An operation keeps the bits of STATUS one by one; a step that clears a sticky bit is not the engine's
turn, so it is a host act that does. -/
theorem nothingElseClearsStatusBits : Obligations.NothingElseClearsStatusBits := by
  refine ⟨fun i s t h => ⟨fun k hk hbit => ?kept, exec_ready h, exec_geomKnown h⟩, fun s t k h8 h15 h hs ht => ?clears⟩
  case kept =>
    rcases hk with rfl | rfl | ⟨h8, h15⟩
    · rw [State.statusWord_ready, decide_eq_true_eq] at hbit ⊢
      exact exec_ready h hbit
    · rw [State.statusWord_geomKnown] at hbit ⊢
      exact exec_geomKnown h hbit
    · obtain ⟨c, rfl⟩ := exists_cause_of_bit h8 h15
      rw [State.statusWord_flag] at hbit ⊢
      exact exec_flag h hbit
  case clears =>
    obtain ⟨c, rfl⟩ := exists_cause_of_bit h8 h15
    rw [State.statusWord_flag] at hs ht
    rcases step_cases s with hturn | ⟨a, rest, hin, hact⟩
    · rw [hturn] at h
      cases h
      simp [State.flag_engineTurn hs] at ht
    · exact ⟨a, rest, hin, State.hostAct_clears_flag (s := s.withInbox rest) (hact.symm.trans h) hs ht⟩

end Sys2Proof.Machine
end

section
/-! The obligation about a host write during an operation (10_state.md R47, 60_exceptions.md R302). -/

namespace Sys2Proof.Machine

/-- Two states that differ at most in what the host writes: CMD, CTRL.REVERSED, ARG and the sticky flags. -/
def State.sameRun (s t : State) : Prop :=
  ∃ cmd reversed args sticky, t = { s with cmd := cmd, reversed := reversed, args := args, sticky := sticky }

theorem State.sameRun.perform {s t : State} (h : s.sameRun t) (m : Micro) : (s.perform m).sameRun (t.perform m) := by
  obtain ⟨cmd, reversed, args, sticky, rfl⟩ := h
  cases m
  case waitReady timedOut => cases timedOut <;> exact ⟨_, _, _, _, rfl⟩
  all_goals exact ⟨_, _, _, _, rfl⟩

theorem State.sameRun.withSeq {s t : State} (h : s.sameRun t) (q : Seq) : (s.withSeq q).sameRun (t.withSeq q) := by
  obtain ⟨cmd, reversed, args, sticky, rfl⟩ := h
  exact ⟨_, _, _, _, rfl⟩

theorem State.sameRun.seq_eq {s t : State} (h : s.sameRun t) : t.seq = s.seq := by
  obtain ⟨cmd, reversed, args, sticky, rfl⟩ := h
  rfl

theorem State.sameRun.microStep {s t : State} (h : s.sameRun t) : s.microStep.sameRun t.microStep := by
  unfold State.microStep
  rw [h.seq_eq]
  split
  · exact h
  · exact h.withSeq _
  · exact (h.perform _).withSeq _

theorem State.sameRun.microSteps {s t : State} (h : s.sameRun t) (n : Nat) :
    (State.microSteps n s).sameRun (State.microSteps n t) := by
  induction n generalizing s t with
  | zero => exact h
  | succ n ih => exact ih h.microStep

/-- A due host write to a busy block leaves a state that runs the same (60_exceptions.md R302). -/
theorem State.hostWrite_busy {s : State} (hb : s.busy = true) (off : BitVec 8) (w : Word) :
    ∃ t, s.hostWrite off w = .next t ∧ s.sameRun t := by
  unfold State.hostWrite
  split
  case h_1 =>
    rw [State.writeCmd, if_pos hb]
    exact ⟨_, rfl, _, _, _, _, rfl⟩
  all_goals exact ⟨_, rfl, _, _, _, _, rfl⟩

/-- Settles O56: the write leaves a state that runs the same, and two such states still do after the engine's turn,
which has no further host step to stop at. -/
theorem hostWritesDoNotDisturbARunningOperation : Obligations.HostWritesDoNotDisturbARunningOperation := by
  intro s off w hb hr he hin
  have hnext : s.comesNext (.write 16 off w) [] := ⟨some 0, hin, .inr rfl⟩
  obtain ⟨t, hwrite, hrun⟩ := State.hostWrite_busy (s := s.withInbox []) hb off w
  have hstep : step s = .next t := by rw [step_write hnext he hr, hwrite]
  have hempty : t.inbox = [] := by
    obtain ⟨cmd, reversed, args, sticky, rfl⟩ := hrun
    rfl
  have hend : (s.withInbox []).engineTurn.sameRun t.engineTurn := by
    rw [State.engineTurn_nil _ hempty, State.engineTurn_nil _ rfl, hrun.seq_eq]
    exact hrun.microSteps _
  refine ⟨t, t.engineTurn, hstep, ?second, ?busy, ?lat, ?_⟩
  case second => simp [step, State.advance, hempty]
  case busy => simpa [State.busy, hrun.seq_eq] using hb
  case lat =>
    obtain ⟨cmd, reversed, args, sticky, rfl⟩ := hrun
    rfl
  obtain ⟨cmd, reversed, args, sticky, h⟩ := hend
  rw [h]
  exact ⟨rfl, rfl, rfl, rfl, rfl, rfl, rfl, rfl, rfl, rfl, rfl, rfl, rfl, rfl, rfl⟩

end Sys2Proof.Machine
end

section
/-! Obligations about the host register interface and engine reset (10_state.md R30 to R60). -/

namespace Sys2Proof.Machine

/-! ## Commands -/

/-- Settles O5; the second clause is the first for the write that `withFetchWord` places. -/
theorem stepRunsTheCommandWritten : Obligations.StepRunsTheCommandWritten := by
  have hwritten : ∀ (s : State) (rest : List HostStep) (w : Word) (i : Instr), s.seq = .idle → s.resetIn = false →
      s.comesNext (.write 16 0x00 w) rest → decode w = .ok i → step s = exec i ((s.withInbox rest).withCmd w) := by
    intro s rest w i hs hr hc hd
    have hb : (s.withInbox rest).busy = false := State.busy_of_idle hs
    have hcmd : hostReg 0x00 = .cmd := by decide
    rw [step_write hc (by decide) hr, State.hostWrite, hcmd]
    simp [State.writeCmd, hb, hd]
  refine ⟨hwritten, fun s w i hd => ?_⟩
  have hword : s.withFetchWord 16 w.toNat = s.withCommand w := by
    simp [State.withFetchWord, Nat.mod_eq_of_lt w.isLt]
  rw [hword]
  exact hwritten (s.withCommand w) s.inbox w i rfl rfl ⟨some 0, rfl, .inl rfl⟩ hd

/-! ## STATUS -/

/-- Settles O13: the layout of STATUS field by field. -/
theorem statusLayout : Obligations.StatusLayout := by
  intro s
  refine ⟨s.statusWord_busy, ?lcCode, s.statusWord_ready, s.statusWord_geomKnown, by rw [State.getLsbD_statusWord]; rfl,
    by rw [State.getLsbD_statusWord]; rfl, fun c => ?cause⟩
  case lcCode =>
    rw [s.statusWord_lc]
    cases s.lc <;> rfl
  case cause =>
    have h := And.intro (s.statusWord_flag c) (s.getLsbD_statusWord_setFlag c)
    cases c <;> exact h

/-! ## Writes -/

/-- Settles O11: the write is `clearFlags`. -/
theorem statusWriteClearsOnes : Obligations.StatusWriteClearsOnes := by
  intro s rest w hr hc
  have hreg : hostReg 0x02 = .status := by decide
  refine ⟨(s.withInbox rest).clearFlags w, ?_, fun k h8 h15 => ?_, rfl⟩
  · rw [step_write hc (by decide) hr, State.hostWrite, hreg]
  · exact (s.withInbox rest).getLsbD_statusWord_clearFlags w h8 h15

/-- Settles O14: the offset names ARGi, whose entry alone is set. -/
theorem argWriteStoresTheWord : Obligations.ArgWriteStoresTheWord := by
  intro s rest i w hr hc
  have heven : (BitVec.ofNat 8 (0x08 + 2 * i.val)).toNat % 2 = 0 := by
    rw [BitVec.toNat_ofNat]
    omega
  refine ⟨{ s.withInbox rest with args := s.args.set i w }, ?_, rfl, fun j => ?_⟩
  · rw [step_write hc heven hr, State.hostWrite, hostReg_arg]
    rfl
  · simp [Vector.getElem_set, Fin.ext_iff, eq_comm]

/-- Settles O15: the write sets REVERSED, which CTRL shows in bit 0. -/
theorem ctrlWriteSetsReversed : Obligations.CtrlWriteSetsReversed := by
  intro s rest w hr hc
  have hreg : hostReg 0x04 = .ctrl := by decide
  constructor
  · rw [step_write hc (by decide) hr, State.hostWrite, hreg]
  · rw [State.ctrlWord, BitVec.toNat_append]
    simp [BitVec.getLsbD, Nat.toNat_testBit, -Nat.testBit_zero]

/-- Settles O16. A read of a reserved offset is no draw; a write is ignored out of reset and lost in it. -/
theorem reservedOffsetsReadZeroAndIgnoreWrites : Obligations.ReservedOffsetsReadZeroAndIgnoreWrites := by
  intro s rest off heven hrange
  have hreg := hostReg_reserved hrange
  refine ⟨fun hc => step_read_exact hc heven hreg (.inr rfl), fun w hc => ?_⟩
  cases hr : s.resetIn
  · rw [step_write hc heven hr, State.hostWrite, hreg]
  · exact step_write_in_reset hc heven hr

/-! ## Reads -/

/-- Settles O18: one exact read, at the offset of each register. -/
theorem hostReadsReturnTheRegisters : Obligations.HostReadsReturnTheRegisters := by
  intro s rest off heven hc returns
  have hreads : ∀ (n : Nat) (r : HostReg), hostReg (BitVec.ofNat 8 n) = r → (s.seq = .idle ∨ drawnWhileBusy r = false) →
      off.toNat = n → returns (s.regValue r) :=
    fun n r hreg hx hoff => step_read_exact hc heven (offset_eq hoff ▸ hreg) hx
  refine ⟨hreads _ .cmd (by decide) (.inr rfl), hreads _ .status (by decide) (.inr rfl),
    hreads _ .ctrl (by decide) (.inr rfl), fun i => hreads _ (.arg i) (hostReg_arg i) (.inr rfl), fun hs => ?_⟩
  exact ⟨hreads _ .rdata (by decide) (.inl hs), hreads _ .panelW (by decide) (.inl hs),
    hreads _ .panelH (by decide) (.inl hs), hreads _ .imgbufL (by decide) (.inl hs),
    hreads _ .imgbufH (by decide) (.inl hs), fun i => hreads _ (.fwver i) (hostReg_fwver i) (.inl hs),
    fun i => hreads _ (.lutver i) (hostReg_lutver i) (.inl hs),
    fun i => hreads _ (.rdbuf i) (hostReg_rdbuf i) (.inl hs)⟩

/-- Settles O19: the draw is `step_read_draw`; the exact reads are those of O18, which hold at any time. -/
theorem resultReadsWhileBusyAreDraws : Obligations.ResultReadsWhileBusyAreDraws := by
  intro s rest off hb heven hc returns
  obtain ⟨hcmd, hstatus, hctrl, harg, _⟩ := hostReadsReturnTheRegisters s rest off heven hc
  exact ⟨fun hrange => step_read_draw hc heven hb (drawnWhileBusy_hostReg heven hrange), hcmd, hstatus, hctrl, harg⟩

/-! ## Engine reset -/

/-- Settles O21: the table does not look at the fields an engine reset leaves, so it holds for any values of them. -/
theorem resetStateHoldsTheTable : Obligations.ResetStateHoldsTheTable := by
  unfold Obligations.ResetStateHoldsTheTable
  intro table
  have hstatus : State.reset.statusWord = 0 := by decide
  have hctrl : State.reset.ctrlWord = 0 := by decide
  have hblock : ∀ (a : Bool) (n : Nat) e ib rs k, table { State.reset with
      resetIn := a, fbEpoch := n, env := e, inbox := ib, busReads := rs, readDraws := k } := by
    intro a n e ib rs k
    have hget : ∀ (n : Nat) (j : Fin n), (Vector.replicate n (0 : Word))[j] = 0 := by simp
    exact ⟨rfl, hstatus, rfl, rfl, hctrl, rfl, hget 9, rfl, rfl, rfl, rfl, fun i => ⟨hget 8 i, hget 8 i⟩, hget 20,
      rfl, rfl, rfl, fun a => rfl, rfl⟩
  have hreset : ∀ s : State, table s.engineReset := fun s => hblock _ _ _ _ _ _
  refine ⟨hblock false 0 Env.unscripted [] [] 0, fun s rest hc => ⟨(s.withInbox rest).engineReset, ?_, hreset _, rfl⟩⟩
  rw [step_of_comesNext hc]
  rfl

end Sys2Proof.Machine
end

section
/-! The obligation about malformed host accesses (20_memory.md R84). -/

namespace Sys2Proof.Machine

theorem accessRefusal_of_width {width : Nat} (h : width ≠ 16) (off : BitVec 8) :
    accessRefusal width off = some .hostAccessWidth := by
  simp [accessRefusal, h]

theorem accessRefusal_of_odd {off : BitVec 8} (h : off.toNat % 2 = 1) :
    accessRefusal 16 off = some .hostAccessOddOffset := by
  simp [accessRefusal, h]

/-- A due access outside the interface is refused, whether it is a write or a read (20_memory.md R84). -/
theorem step_refused {s : State} {rest : List HostStep} {width : Nat} {off : BitVec 8} {w : Word} {r : Refusal}
    (h : s.comesNext (.write width off w) rest ∨ s.comesNext (.read width off) rest)
    (hr : accessRefusal width off = some r) : step s = .refused r := by
  rcases h with h | h <;> rw [step_of_comesNext h] <;> simp only [State.hostAct, hr]

/-- Settles O20: such an access is refused under the name `accessRefusal` gives it. -/
theorem malformedHostAccessIsRefused : Obligations.MalformedHostAccessIsRefused := by
  intro s rest width off w h
  refine ⟨fun hwidth => step_refused h (accessRefusal_of_width hwidth off), ?_⟩
  rintro rfl hodd
  exact step_refused h (accessRefusal_of_odd hodd)

end Sys2Proof.Machine
end

section
/-! The obligation about byte orders and the pure functions, one function at a time (20_memory.md R85 to R87,
44_codec.md R240, 45_writer.md R260 to R262). -/

namespace Sys2Proof.Machine

/-- Two bit fields side by side, as a number. -/
theorem toNat_append_eq_mul_add {m n : Nat} (x : BitVec m) (y : BitVec n) :
    (x ++ y).toNat = x.toNat * 2 ^ n + y.toNat := by
  rw [BitVec.toNat_append, ← Nat.shiftLeft_add_eq_or_of_lt y.isLt, Nat.shiftLeft_eq]

theorem map_toNat_wireBytes (w : Word) : (wireBytes w).map BitVec.toNat = [w.toNat / 256, w.toNat % 256] := by
  have hw := w.isLt
  have hhigh : w.toNat / 256 % 256 = w.toNat / 256 := by omega
  simp [wireBytes, Nat.shiftRight_eq_div_pow, hhigh]

theorem toNat_unitOfBytes (first second : Byte) : (unitOfBytes first second).toNat = first.toNat * 256 + second.toNat :=
  toNat_append_eq_mul_add first second

theorem toNat_word32 (hi lo : Word) : (word32 hi lo).toNat = hi.toNat * 65536 + lo.toNat :=
  toNat_append_eq_mul_add hi lo

theorem highHalf_word32 (hi lo : Word) : highHalf (word32 hi lo) = hi := BitVec.extractLsb'_append_eq_left

theorem lowHalf_word32 (hi lo : Word) : lowHalf (word32 hi lo) = lo := BitVec.extractLsb'_append_eq_right

/-- An odd x keeps the high nibble (44_codec.md R240). -/
theorem toNat_packPixel_odd (old : Byte) (c : BitVec 4) :
    (packPixel old true c).toNat = old.toNat / 16 * 16 + c.toNat := by
  have hold := old.isLt
  have hhigh : (old.extractLsb' 4 4).toNat = old.toNat / 16 := by
    rw [BitVec.extractLsb'_toNat, Nat.shiftRight_eq_div_pow]
    omega
  rw [← hhigh]
  exact toNat_append_eq_mul_add (old.extractLsb' 4 4) c

/-- An even x keeps the low nibble (44_codec.md R240). -/
theorem toNat_packPixel_even (old : Byte) (c : BitVec 4) :
    (packPixel old false c).toNat = c.toNat * 16 + old.toNat % 16 := by
  have hlow : (old.extractLsb' 0 4).toNat = old.toNat % 16 := by rw [BitVec.extractLsb'_toNat, Nat.shiftRight_zero]
  rw [← hlow]
  exact toNat_append_eq_mul_add c (old.extractLsb' 0 4)

theorem toNat_encodeWord_reversed (b0 b1 : Byte) : (encodeWord b0 b1 true).toNat = b0.toNat * 256 + b1.toNat :=
  toNat_append_eq_mul_add b0 b1

/-- Inversion is subtraction from 0xFFFF, which never borrows (45_writer.md R260). -/
theorem toNat_encodeWord_inverted (b0 b1 : Byte) :
    (encodeWord b0 b1 false).toNat = 65535 - (b0.toNat * 256 + b1.toNat) := by
  have hraw : (b0 ++ b1).toNat = b0.toNat * 256 + b1.toNat := toNat_append_eq_mul_add b0 b1
  have hle : (b0 ++ b1 : Word) ≤ 0xFFFF := by
    rw [BitVec.le_def]
    exact Nat.le_pred_of_lt (b0 ++ b1).isLt
  rw [← hraw]
  exact BitVec.toNat_sub_of_le hle

theorem toNat_clipExtent (o e l : Word) : (clipExtent o e l).toNat = min e.toNat (l.toNat - o.toNat) := by
  have he := e.isLt
  rw [clipExtent, BitVec.toNat_ofNat]
  omega

theorem two_mul_areaWords {w : Word} (hw : w.toNat % 4 = 0) (h : Word) : 2 * areaWords w h = fbLen w h := by
  have hhalf : w.toNat / 2 = 2 * (w.toNat / 4) := by omega
  rw [areaWords, fbLen, hhalf, Nat.mul_assoc]

/-- Settles O60, each clause by the arithmetic of its function. -/
theorem pureFunctions : Obligations.PureFunctions := by
  refine ⟨fun w hi lo b0 b1 => ?orders, fun old c => ?pack, fun b0 b1 => ?encode, fun o e l hle => ?clip,
    fun w h hw => two_mul_areaWords hw h⟩
  case orders =>
    exact ⟨map_toNat_wireBytes w, toNat_unitOfBytes b0 b1, toNat_word32 hi lo, highHalf_word32 hi lo,
      lowHalf_word32 hi lo⟩
  case pack => exact ⟨toNat_packPixel_odd old c, toNat_packPixel_even old c⟩
  case encode => exact ⟨toNat_encodeWord_reversed b0 b1, toNat_encodeWord_inverted b0 b1⟩
  case clip =>
    rw [toNat_clipExtent]
    exact ⟨rfl, by omega⟩

end Sys2Proof.Machine
end

section
/-! The whole frames of TRACE: every trace an operation's frames leave starts and ends outside a frame
(41_handshake.md R160, 20_memory.md R98). -/

namespace Sys2Proof.Machine

/-- A trace of whole frames: from outside a frame it keeps the frame discipline and ends outside one. -/
def wholeFrames (t : List Event) : Prop := t.foldlM frameStep .outside = some .outside

theorem wholeFrames_nil : wholeFrames [] := rfl

theorem wholeFrames_append {t u : List Event} (ht : wholeFrames t) (hu : wholeFrames u) : wholeFrames (t ++ u) := by
  unfold wholeFrames at *
  rw [List.foldlM_append, ht]
  exact hu

theorem wholeFrames_flatMap {α : Type} {f : α → List Event} (h : ∀ a, wholeFrames (f a)) (l : List α) :
    wholeFrames (l.flatMap f) := by
  induction l with
  | nil => exact wholeFrames_nil
  | cons a l ih => exact wholeFrames_append (h a) ih

/-- Whether a wait timed out is nothing to the frame discipline. -/
theorem frameStep_untimed (f : FrameState) (e : Event) : frameStep f e.untimed = frameStep f e := by
  cases e
  case readyTimeout => cases f <;> rfl
  all_goals rfl

theorem foldlM_frameStep_untimed (t : List Event) (f : FrameState) :
    (t.map Event.untimed).foldlM frameStep f = t.foldlM frameStep f := by
  simp only [List.foldlM_map, frameStep_untimed]

/-- After its marker a frame stays open through the units of its data phase, and `SEL-` closes it. -/
theorem foldlM_frameStep_inside {units : List Event} (h : ∀ e ∈ units, frameStep .inside e = some .inside) :
    (units ++ [Event.sel .inactive]).foldlM frameStep .inside = some .outside := by
  induction units with
  | nil => rfl
  | cons e units ih =>
    rw [List.cons_append, List.foldlM_cons, h e (List.mem_cons_self ..)]
    exact ih fun e' he' => h e' (List.mem_cons_of_mem _ he')

theorem wholeFrames_traceCMD (c : Word) : wholeFrames (traceCMD c) := rfl

theorem wholeFrames_traceWR (d : Word) : wholeFrames (traceWR d) := rfl

theorem wholeFrames_traceRDS (ds : List Word) : wholeFrames (traceRDS ds) := by
  unfold wholeFrames traceRDS
  rw [List.append_assoc]
  refine foldlM_frameStep_inside fun e he => ?_
  obtain ⟨d, _, rfl⟩ := List.mem_map.1 he
  rfl

theorem wholeFrames_traceStream (ws : List Word) : wholeFrames (traceStream ws) := by
  unfold wholeFrames traceStream
  rw [List.append_assoc]
  refine foldlM_frameStep_inside fun e he => ?_
  obtain ⟨d, _, rfl⟩ := List.mem_map.1 he
  rfl

theorem wholeFrames_traceREG (a v : Word) : wholeFrames (traceREG a v) := rfl

theorem wholeFrames_traceARGS (c : Word) (args : List Word) : wholeFrames (traceARGS c args) :=
  wholeFrames_append (wholeFrames_traceCMD c) (wholeFrames_flatMap wholeFrames_traceWR args)

theorem wholeFrames_tracePOLL (v : Word) : wholeFrames (tracePOLL v) := rfl

theorem wholeFrames_of_isPollTrace {t : List Event} (h : isPollTrace t) : wholeFrames t := by
  obtain ⟨vs, v, _, ⟨_, rfl⟩ | ⟨_, rfl⟩⟩ := h
  · exact wholeFrames_flatMap wholeFrames_tracePOLL _
  · exact wholeFrames_append (wholeFrames_flatMap wholeFrames_tracePOLL _) rfl

theorem wholeFrames_of_isAreaLoadTrace {ih il x y w h : Word} {pixels : List Word} {t : List Event}
    (ht : isAreaLoadTrace ih il x y w h pixels t) : wholeFrames t := by
  obtain ⟨p, hp, rfl⟩ := ht
  exact wholeFrames_append (wholeFrames_append (wholeFrames_append (wholeFrames_append (wholeFrames_append
    (wholeFrames_of_isPollTrace hp) (wholeFrames_traceREG _ _)) (wholeFrames_traceREG _ _))
    (wholeFrames_traceARGS _ _)) (wholeFrames_traceStream _)) (wholeFrames_traceCMD _)

theorem wholeFrames_of_isUpdateTrace {ih il x y w h mode : Word} {t : List Event}
    (ht : isUpdateTrace ih il x y w h mode t) : wholeFrames t := by
  obtain ⟨p, hp, rfl⟩ := ht
  exact wholeFrames_append (wholeFrames_of_isPollTrace hp) (wholeFrames_traceARGS _ _)

/-! ## Scripts that send whole frames -/

/-- A list of primitives sends the events of its frames with the words it receives. -/
theorem sends_wire_received (ps : List Prim) :
    Sends (wire ps) (fun t => ∃ ds : List Word, ds.length = rxCount ps ∧ t = primEvents ps ds) := fun e =>
  ⟨wire_isWire ps e, received (wire ps e).1, by rw [wire_received, Env.length_coming], wire_events ps e⟩

theorem bulkReadFrame_wholeFrames (n : Nat) : Sends (wire (bulkReadFrame false n)) wholeFrames := by
  refine (sends_wire_received _).mono ?_
  rintro t ⟨ds, hlen, rfl⟩
  obtain rfl : ds.length = n := by rw [hlen, rxCount_bulkReadFrame]
  rw [primEvents_bulkReadFrame]
  exact wholeFrames_traceRDS ds

theorem readRegisterFrames_wholeFrames (a : Word) : Sends (wire (readRegisterFrames a)) wholeFrames := by
  refine (sends_wire_received _).mono ?_
  rintro t ⟨ds, hlen, rfl⟩
  obtain ⟨d, rfl⟩ := List.length_eq_one_iff.1 (hlen.trans (rxCount_readRegisterFrames a))
  rw [primEvents_readRegisterFrames]
  exact wholeFrames_append (wholeFrames_append (wholeFrames_traceCMD _) (wholeFrames_traceWR _))
    (wholeFrames_traceRDS _)

theorem Sends.andThen_wholeFrames {p q : Script} (hp : Sends p wholeFrames) (hq : Sends q wholeFrames) :
    Sends (Machine.andThen p q) wholeFrames := by
  refine (hp.andThen hq).mono ?_
  rintro t ⟨a, b, ha, hb, rfl⟩
  exact wholeFrames_append ha hb

/-- Frames one after another. -/
theorem wire_append_wholeFrames {ps qs : List Prim} (hp : Sends (wire ps) wholeFrames)
    (hq : Sends (wire qs) wholeFrames) : Sends (wire (ps ++ qs)) wholeFrames := by
  have happ : wire (ps ++ qs) = Machine.andThen (wire ps) (wire qs) := funext (wire_append ps qs)
  exact happ ▸ hp.andThen_wholeFrames hq

theorem updates_nil_wholeFrames : Sends (updates []) wholeFrames :=
  sends_updates_nil.mono fun _ ht => ht ▸ wholeFrames_nil

/-- Frames that receive nothing. -/
theorem wire_wholeFrames {ps : List Prim} (hrx : rxCount ps = 0) (h : wholeFrames (primEvents ps [])) :
    Sends (wire ps) wholeFrames :=
  (sends_wire hrx).mono fun _ ht => ht ▸ h

theorem commandFrame_wholeFrames (c : Word) : Sends (wire (commandFrame c)) wholeFrames :=
  wire_wholeFrames (rxCount_commandFrame c) (wholeFrames_traceCMD c)

theorem argsFrames_wholeFrames (c : Word) (args : List Word) : Sends (wire (argsFrames c args)) wholeFrames :=
  wire_wholeFrames (rxCount_argsFrames c args) (primEvents_argsFrames c args ▸ wholeFrames_traceARGS c args)

theorem pollBusyRegister_wholeFrames (t : Word) : Sends (pollBusyRegister t) wholeFrames :=
  (pollBusyRegister_sends t).mono fun _ => wholeFrames_of_isPollTrace

theorem areaLoad_wholeFrames (img : BitVec 32) (x y w h : Word) (pixels : List Word) :
    Sends (areaLoad img x y w h pixels) wholeFrames :=
  (areaLoad_sends img x y w h pixels).mono fun _ => wholeFrames_of_isAreaLoadTrace

theorem updateArea_wholeFrames (pw ph : Word) (img : BitVec 32) (x y w h mode : Word) :
    Sends (updateArea pw ph img x y w h mode) wholeFrames :=
  (updateArea_sends pw ph img x y w h mode).mono fun _ => wholeFrames_of_isUpdateTrace

theorem clearPanel_wholeFrames (pw ph : Word) (img : BitVec 32) (reversed init : Bool) :
    Sends (clearPanel pw ph img reversed init) wholeFrames := by
  refine (areaLoad_wholeFrames _ _ _ _ _ _).andThen_wholeFrames ?_
  split
  · exact updateArea_wholeFrames _ _ _ _ _ _ _ _
  · exact updates_nil_wholeFrames

end Sys2Proof.Machine
end

section
/-! What the invariant looks at, and the runs of micro-steps that stay sound all along (20_memory.md R80,
43_init.md R214, 41_handshake.md R160). -/

namespace Sys2Proof.Machine

/-! ## What `sound` and `settled` look at -/

/-- The pieces of the state that `sound` and `settled` look at. -/
def State.vitals (s : State) : Memory × Bool × Word × Word × List Event × SelLevel × Lifecycle :=
  (s.fb, s.geomKnown, s.panelW, s.panelH, s.traceRev, s.selOut, s.lc)

theorem State.sound_congr {s t : State} (h : t.vitals = s.vitals) : t.sound = s.sound := by
  simp only [State.vitals, Prod.mk.injEq] at h
  obtain ⟨hfb, hg, hw, hh, htr, hsel, _⟩ := h
  simp only [State.sound, State.trace, hfb, hg, hw, hh, htr, hsel]

theorem State.settled_congr {s t : State} (h : t.vitals = s.vitals) : t.settled = s.settled := by
  have hsound := State.sound_congr h
  simp only [State.vitals, Prod.mk.injEq] at h
  obtain ⟨_, hg, _, _, _, hsel, hlc⟩ := h
  simp only [State.settled, hsound, hg, hsel, hlc]

/-- What a micro-step makes of the vitals depends on them alone. -/
theorem State.vitals_perform {s t : State} (h : t.vitals = s.vitals) (m : Micro) :
    (t.perform m).vitals = (s.perform m).vitals := by
  simp only [State.vitals, Prod.mk.injEq] at h
  obtain ⟨hfb, hg, hw, hh, htr, hsel, hlc⟩ := h
  cases m
  case waitReady timedOut => cases timedOut <;> simp [State.vitals, State.perform, *]
  all_goals simp [State.vitals, State.perform, *]

theorem soundRun_congr {s t : State} (h : t.vitals = s.vitals) (ms : List Micro) : soundRun ms t = soundRun ms s := by
  induction ms generalizing s t with
  | nil => exact State.settled_congr h
  | cons m ms ih => simp only [soundRun, State.sound_congr h, ih (State.vitals_perform h m)]

theorem soundRun_withSeq (ms : List Micro) (s : State) (q : Seq) : soundRun ms (s.withSeq q) = soundRun ms s :=
  soundRun_congr (s := s) (t := s.withSeq q) rfl ms

theorem State.sound_iff (s : State) : s.sound = true ↔
    s.fb.wf = true ∧ (s.geomKnown = true → infoFailure s.panelW s.panelH = none) ∧
      ∃ f, frameState s.trace = some f ∧ (f = .outside ↔ s.selOut = .inactive) := by
  cases hf : frameState s.trace <;> simp [State.sound, hf, Bool.or_eq_true, and_assoc, imp_iff_not_or]

theorem State.settled_iff (s : State) : s.settled = true ↔
    s.sound = true ∧ s.selOut = .inactive ∧ (s.geomKnown = true ↔ s.lc = .ready) := by
  simp only [State.settled, Bool.and_eq_true, decide_eq_true_eq, beq_iff_eq, and_assoc]
  rw [Bool.eq_iff_iff (a := s.geomKnown), decide_eq_true_eq]

/-! ## One wire event -/

/-- The state is sound and its trace stands at `f`. -/
def State.standsAt (s : State) (f : FrameState) : Prop := s.sound = true ∧ frameState s.trace = some f

/-- Only `SEL+` and `SEL-` open and close a frame. -/
theorem frameStep_outside_iff {f g : FrameState} {e : Event} (h : frameStep f e = some g) (he : ∀ l, e ≠ .sel l) :
    g = .outside ↔ f = .outside := by
  cases e
  case sel l => exact absurd rfl (he l)
  case tx w =>
    cases f
    case outside => cases h
    case opened =>
      change (if isMarker w then some FrameState.inside else none) = some g at h
      split at h <;> cases h
      simp
    case inside =>
      cases h
      simp
  all_goals
    cases f <;> cases h
    all_goals simp

/-- An event that keeps the frame discipline keeps SEL_OUT inactive exactly outside a frame. -/
theorem selAfter_of_frameStep {f g : FrameState} {e : Event} {l : SelLevel} (h : frameStep f e = some g)
    (hl : f = .outside ↔ l = .inactive) : g = .outside ↔ selAfter l [e] = .inactive := by
  cases e
  case sel l' =>
    cases f <;> cases l' <;> cases h
    all_goals simp [selAfter]
  all_goals exact (frameStep_outside_iff h (by simp)).trans hl

theorem State.standsAt_perform {s : State} {m : Micro} {e : Event} {f g : FrameState} (hm : m.event = some e)
    (h : s.standsAt f) (he : frameStep f e = some g) : (s.perform m).standsAt g := by
  obtain ⟨hs, hf⟩ := h
  obtain ⟨hfb, hgeom, f', hf', hsel⟩ := s.sound_iff.1 hs
  obtain rfl : f = f' := Option.some.inj (hf.symm.trans hf')
  have htrace : frameState (s.afterEvents [e]).trace = some g := by
    rw [State.trace_afterEvents, frameState, List.foldlM_append, ← frameState, hf]
    simpa using he
  rw [State.perform_event hm]
  exact ⟨(State.sound_iff _).2 ⟨hfb, hgeom, g, htrace, selAfter_of_frameStep he hsel⟩, htrace⟩

/-! ## Sound runs -/

/-- Every state from which one of the micro-steps is made is sound. -/
def soundAlong : List Micro → State → Prop
  | [], _ => True
  | m :: ms, s => s.sound = true ∧ soundAlong ms (s.perform m)

theorem soundRun_iff (ms : List Micro) (s : State) :
    soundRun ms s = true ↔ soundAlong ms s ∧ (s.performAll ms).settled = true := by
  induction ms generalizing s with
  | nil => simp [soundRun, soundAlong]
  | cons m ms ih => simp [soundRun, soundAlong, ih, and_assoc]

theorem soundAlong_append (ms ns : List Micro) (s : State) :
    soundAlong (ms ++ ns) s ↔ soundAlong ms s ∧ soundAlong ns (s.performAll ms) := by
  induction ms generalizing s with
  | nil => simp [soundAlong]
  | cons m ms ih => simp [soundAlong, ih, and_assoc]

/-- A sound run continues as one from any point of it. -/
theorem soundRun_drop {ms : List Micro} {s : State} (h : soundRun ms s = true) (n : Nat) :
    soundRun (ms.drop n) (s.performAll (ms.take n)) = true := by
  rw [soundRun_iff] at h ⊢
  rw [← List.take_append_drop n ms, soundAlong_append, State.performAll_append] at h
  exact ⟨h.1.2, h.2⟩

/-- From every state with `P` the micro-steps stay sound all along and end in a state with `Q`. -/
def Runs (P : State → Prop) (ms : List Micro) (Q : State → Prop) : Prop :=
  ∀ s, P s → soundAlong ms s ∧ Q (s.performAll ms)

section
variable {P Q R : State → Prop} {ms ns : List Micro}

theorem Runs.append (hp : Runs P ms Q) (hq : Runs Q ns R) : Runs P (ms ++ ns) R := by
  intro s hs
  obtain ⟨h1, hmid⟩ := hp s hs
  obtain ⟨h2, hend⟩ := hq _ hmid
  exact ⟨(soundAlong_append _ _ _).2 ⟨h1, h2⟩, by rwa [State.performAll_append]⟩

theorem Runs.nil (h : ∀ s, P s → Q s) : Runs P [] Q := fun s hs => ⟨trivial, h s hs⟩

theorem Runs.single {m : Micro} (hsound : ∀ s, P s → s.sound = true) (h : ∀ s, P s → Q (s.perform m)) :
    Runs P [m] Q := fun s hs => ⟨⟨hsound s hs, trivial⟩, h s hs⟩

/-- Micro-steps that each keep a property of sound states. -/
theorem Runs.of_kept (hsound : ∀ s, P s → s.sound = true) (h : ∀ m ∈ ms, ∀ s, P s → P (s.perform m)) :
    Runs P ms P := by
  induction ms with
  | nil => exact Runs.nil fun _ hs => hs
  | cons m ms ih =>
    exact (Runs.single hsound (h m (List.mem_cons_self ..))).append (ih fun n hn => h n (List.mem_cons_of_mem _ hn))

theorem Runs.imp {P' Q' : State → Prop} (h : Runs P ms Q) (hp : ∀ s, P' s → P s) (hq : ∀ s, Q s → Q' s) :
    Runs P' ms Q' := fun s hs => ⟨(h s (hp s hs)).1, hq _ (h s (hp s hs)).2⟩

end

/-- Wire micro-steps whose events keep the frame discipline stay sound. -/
theorem runs_of_event {ms : List Micro} (hms : ∀ m ∈ ms, m.event.isSome = true) {f g : FrameState}
    (h : (eventsOf ms).foldlM frameStep f = some g) : Runs (·.standsAt f) ms (·.standsAt g) := by
  induction ms generalizing f with
  | nil =>
    obtain rfl : f = g := Option.some.inj h
    exact Runs.nil fun _ hs => hs
  | cons m ms ih =>
    obtain ⟨e, he⟩ := Option.isSome_iff_exists.1 (hms m (List.mem_cons_self ..))
    have hev : eventsOf (m :: ms) = e :: eventsOf ms := by simp [eventsOf, he]
    rw [hev, List.foldlM_cons, Option.bind_eq_bind, Option.bind_eq_some_iff] at h
    obtain ⟨f', hf', h⟩ := h
    exact (Runs.single (fun _ hs => hs.1) fun _ hs => State.standsAt_perform he hs hf').append
      (ih (fun n hn => hms n (List.mem_cons_of_mem _ hn)) h)

/-! ## Settled states, and scripts that lead from one to another -/

/-- The state is settled, and `known` says whether its geometry is known. -/
def State.settledWith (s : State) (known : Bool) : Prop := s.settled = true ∧ s.geomKnown = known

theorem State.sound_of_settledWith {s : State} {known : Bool} (h : s.settledWith known) : s.sound = true :=
  (s.settled_iff.1 h.1).1

theorem State.settledWith_congr {s t : State} {known : Bool} (hv : t.vitals = s.vitals) (h : s.settledWith known) :
    t.settledWith known :=
  ⟨(State.settled_congr hv).trans h.1, (congrArg (fun v => v.2.1) hv).trans h.2⟩

/-- A settled state stands outside a frame. -/
theorem State.settled_iff_standsAt (s : State) :
    s.settled = true ↔ s.standsAt .outside ∧ (s.geomKnown = true ↔ s.lc = .ready) := by
  rw [s.settled_iff, State.standsAt, and_assoc]
  refine and_congr_right fun hs => and_congr_left fun _ => ?_
  obtain ⟨_, _, f, hf, hsel⟩ := s.sound_iff.1 hs
  rw [← hsel, hf, Option.some.injEq]

/-- Whatever the environment chooses, the script's micro-steps stay sound from `P` on and end in `Q`. -/
def Leads (P : State → Prop) (sc : Script) (Q : State → Prop) : Prop := ∀ e, Runs P (sc e).1 Q

theorem Leads.andThen {P Q R : State → Prop} {p q : Script} (hp : Leads P p Q) (hq : Leads Q q R) :
    Leads P (Machine.andThen p q) R := fun e => (hp e).append (hq _)

theorem Leads.thenReceived {P Q R : State → Prop} {p : Script} {k : List Word → Script} (hp : Leads P p Q)
    (hk : ∀ ws, Leads Q (k ws) R) : Leads P (Machine.thenReceived p k) R := fun e => (hp e).append (hk _ _)

theorem Leads.imp {P Q P' Q' : State → Prop} {sc : Script} (h : Leads P sc Q) (hp : ∀ s, P' s → P s)
    (hq : ∀ s, Q s → Q' s) : Leads P' sc Q' := fun e => (h e).imp hp hq

theorem leads_updates {P Q : State → Prop} {ms : List Micro} (h : Runs P ms Q) : Leads P (updates ms) Q := fun _ => h

/-- A script of whole frames leads from a settled state to one that knows the geometry as before. -/
theorem leads_of_wholeFrames {sc : Script} (h : Sends sc wholeFrames) (known : Bool) :
    Leads (·.settledWith known) sc (·.settledWith known) := by
  intro e s hs
  obtain ⟨hwire, hfold⟩ := h e
  obtain ⟨hout, hlc⟩ := s.settled_iff_standsAt.1 hs.1
  obtain ⟨halong, hend⟩ := runs_of_event hwire ((foldlM_frameStep_untimed _ _).symm.trans hfold) s hout
  refine ⟨halong, ?_⟩
  rw [State.performAll_events hwire] at hend ⊢
  exact ⟨(State.settled_iff_standsAt _).2 ⟨hend, hlc⟩, hs.2⟩

/-- Micro-steps that `sound` and `settled` do not see. -/
theorem runs_of_unseen {ms : List Micro} (h : ∀ m ∈ ms, ∀ s : State, (s.perform m).vitals = s.vitals)
    (known : Bool) :
    Runs (·.settledWith known) ms (·.settledWith known) :=
  Runs.of_kept (fun _ => State.sound_of_settledWith) fun m hm s => State.settledWith_congr (h m hm s)

end Sys2Proof.Machine
end

section
/-! The obligation about the invariant: every operation's script leads soundly from one settled state to another, and
every step keeps the invariant (43_init.md R214, R216; 70_reset_and_hazards.md R340). -/

namespace Sys2Proof.Machine

/-! ## State updates the invariant does not see -/

theorem setRdata_unseen (w : Word) : ∀ m ∈ [Micro.setRdata w], ∀ s : State, (s.perform m).vitals = s.vitals := by
  simp only [List.forall_mem_singleton]
  exact fun _ => rfl

theorem copyOutFrom_unseen (k : Nat) (ws : List Word) :
    ∀ m ∈ copyOutFrom k ws, ∀ s : State, (s.perform m).vitals = s.vitals := by
  intro m hm s
  obtain ⟨i, w, rfl⟩ := mem_copyOutFrom hm
  rfl

/-! ## State updates of the bring-up -/

/-- The lifecycle moves short of READY while the geometry is unknown (43_init.md R211 to R214). -/
theorem State.settledWith_setLc {s : State} {l : Lifecycle} (hl : l ≠ .ready) (h : s.settledWith false) :
    (s.perform (.setLc l)).settledWith false := by
  obtain ⟨hset, hgeom⟩ := h
  obtain ⟨hout, _⟩ := s.settled_iff_standsAt.1 hset
  have hlc : (s.perform (.setLc l)).geomKnown = true ↔ l = .ready := by simp [State.perform, hgeom, hl]
  exact ⟨(State.settled_iff_standsAt _).2 ⟨hout, hlc⟩, hgeom⟩

theorem runs_setLc {l : Lifecycle} (hl : l ≠ .ready) : Runs (·.settledWith false) [.setLc l] (·.settledWith false) :=
  Runs.single (fun _ => State.sound_of_settledWith) fun _ => State.settledWith_setLc hl

/-- A device-info register may take any word while the geometry is unknown. -/
theorem State.settledWith_setsInfo {s : State} {m : Micro} (hm : m.setsInfo = true) (h : s.settledWith false) :
    (s.perform m).settledWith false := by
  obtain ⟨hset, hgeom⟩ := h
  obtain ⟨hsound, hsel, hlc⟩ := s.settled_iff.1 hset
  obtain ⟨hfb, _, hframe⟩ := s.sound_iff.1 hsound
  have hunknown : ∀ {P : Prop}, s.geomKnown = true → P := fun hk => by simp [hgeom] at hk
  cases m
  case setPanelW | setPanelH | setImgbufL | setImgbufH | setFwver | setLutver =>
    exact ⟨(State.settled_iff _).2 ⟨(State.sound_iff _).2 ⟨hfb, hunknown, hframe⟩, hsel, hlc⟩, hgeom⟩
  all_goals cases hm

/-- A byte written inside the RAM keeps a state sound (20_memory.md R80). -/
theorem State.standsAt_writeFb {s : State} {a : Nat} {v : Byte} {f : FrameState} (ha : a < Config.P_FB_CAPACITY)
    (h : s.standsAt f) : (s.perform (.writeFb a v)).standsAt f := by
  obtain ⟨hsound, hf⟩ := h
  obtain ⟨hfb, hrest⟩ := s.sound_iff.1 hsound
  exact ⟨(State.sound_iff _).2 ⟨Memory.wf_write hfb ha, hrest⟩, hf⟩

/-- Between frames with the geometry known: the states of GET_DEVICE_INFO's zero-fill, before LC becomes READY. -/
def State.reported (s : State) : Prop := s.standsAt .outside ∧ s.geomKnown = true

theorem State.reported_setGeomKnown {s : State} (hinfo : infoFailure s.panelW s.panelH = none)
    (h : s.settledWith false) : (s.perform .setGeomKnown).reported := by
  obtain ⟨hout, _⟩ := s.settled_iff_standsAt.1 h.1
  obtain ⟨hfb, _, hframe⟩ := s.sound_iff.1 hout.1
  exact ⟨⟨(State.sound_iff _).2 ⟨hfb, fun _ => hinfo, hframe⟩, hout.2⟩, rfl⟩

theorem State.settled_setLc_ready {s : State} (h : s.reported) : (s.perform (.setLc .ready)).settled = true :=
  (State.settled_iff_standsAt _).2 ⟨h.1, iff_of_true h.2 rfl⟩

/-- A usable record's framebuffer fits the RAM (43_init.md R214). -/
theorem fbLen_le_of_infoFailure {w h : Word} (hinfo : infoFailure w h = none) : fbLen w h ≤ Config.P_FB_CAPACITY := by
  by_contra hlen
  unfold infoFailure at hinfo
  split at hinfo
  · cases hinfo
  · simp at hinfo
    omega

theorem runs_infoUpdates (r : List Word) : Runs (·.settledWith false) (infoUpdates r)
    (fun s => s.settledWith false ∧ s.panelW = infoWord r 0 ∧ s.panelH = infoWord r 1) := by
  have hkept : Runs (·.settledWith false) (infoUpdates r) (·.settledWith false) :=
    Runs.of_kept (fun _ => State.sound_of_settledWith) fun m hm _ => State.settledWith_setsInfo (mem_infoUpdates hm)
  intro s hs
  obtain ⟨halong, hend⟩ := hkept s hs
  refine ⟨halong, hend, ?_, ?_⟩ <;> rw [performAll_infoUpdates]

theorem runs_zeroFillUpdates {n : Nat} (hn : n ≤ Config.P_FB_CAPACITY) :
    Runs State.reported (zeroFillUpdates n) State.reported := by
  refine Runs.of_kept (fun _ hs => hs.1.1) fun m hm s hs => ?_
  obtain ⟨a, ha, rfl⟩ := mem_zeroFillUpdates hm
  exact ⟨State.standsAt_writeFb (by omega) hs.1, hs.2⟩

/-- GET_DEVICE_INFO's updates: a usable record makes the geometry known and then READY, and any other ends in FAILED
(43_init.md R214). -/
theorem runs_deviceInfoUpdates (r : List Word) :
    Runs (·.settledWith false) (deviceInfoUpdates r) (·.settled = true) := by
  refine (runs_of_unseen (copyOutFrom_unseen 0 r) false).append ?_
  split
  case h_1 c _ =>
    have hsticky : Runs (·.settledWith false) [.setSticky c] (·.settledWith false) :=
      runs_of_unseen (by simp only [List.forall_mem_singleton]; exact fun _ => rfl) false
    exact (hsticky.append (runs_setLc (l := .failed) (by decide))).imp (fun _ hs => hs) fun _ hs => hs.1
  case h_2 hinfo =>
    have hknown : Runs (fun s => s.settledWith false ∧ s.panelW = infoWord r 0 ∧ s.panelH = infoWord r 1)
        [.setGeomKnown] State.reported := by
      refine Runs.single (fun _ hs => State.sound_of_settledWith hs.1) fun s hs => ?_
      obtain ⟨hset, hw, hh⟩ := hs
      exact State.reported_setGeomKnown (by rw [hw, hh, hinfo]) hset
    exact (((runs_infoUpdates r).append hknown).append (runs_zeroFillUpdates (fbLen_le_of_infoFailure hinfo))).append
      (Runs.single (fun _ hs => hs.1.1) fun _ => State.settled_setLc_ready)

/-! ## The scripts of the operations -/

theorem leads_settled_of_settledWith {sc : Script}
    (h : ∀ known, Leads (·.settledWith known) sc (·.settledWith known)) :
    Leads (·.settled = true) sc (·.settled = true) := by
  intro e s hs
  obtain ⟨halong, hend, _⟩ := h s.geomKnown e s ⟨hs, rfl⟩
  exact ⟨halong, hend⟩

/-- Whole frames lead from a settled state to a settled one. -/
theorem leads_settled_of_wholeFrames {sc : Script} (h : Sends sc wholeFrames) :
    Leads (·.settled = true) sc (·.settled = true) :=
  leads_settled_of_settledWith (leads_of_wholeFrames h)

/-- Updates that `sound` and `settled` do not see. -/
theorem leads_unseen {ms : List Micro} (h : ∀ m ∈ ms, ∀ s : State, (s.perform m).vitals = s.vitals) :
    Leads (·.settled = true) (updates ms) (·.settled = true) :=
  leads_settled_of_settledWith fun known => leads_updates (runs_of_unseen h known)

/-- Frames, then a lifecycle state short of READY. -/
theorem leads_setLc {ps : List Prim} {l : Lifecycle} (hp : Sends (wire ps) wholeFrames) (hl : l ≠ .ready) :
    Leads (·.settledWith false) (andThen (wire ps) (updates [.setLc l])) (·.settledWith false) :=
  (leads_of_wholeFrames hp false).andThen (leads_updates (runs_setLc hl))

theorem leads_resetPanelScript : Leads (·.settledWith false) resetPanelScript (·.settledWith false) :=
  leads_setLc (wire_wholeFrames rfl rfl) (by decide)

theorem leads_systemRunScript : Leads (·.settledWith false) systemRunScript (·.settledWith false) :=
  leads_setLc (commandFrame_wholeFrames _) (by decide)

theorem leads_configureScript : Leads (·.settledWith false) configureScript (·.settledWith false) :=
  leads_setLc (wire_wholeFrames rfl rfl) (by decide)

theorem leads_getDeviceInfoScript {k : List Word → Script}
    (hk : ∀ r, Leads (·.settled = true) (k r) (·.settled = true)) :
    Leads (·.settledWith false) (getDeviceInfoScript k) (·.settled = true) := by
  have hframes : Sends (wire (commandFrame Config.K_GET_DEV_INFO
      ++ bulkReadFrame Config.P_WAIT_EACH_STREAM_WORD Config.P_DEVINFO_WORDS)) wholeFrames :=
    wire_append_wholeFrames (commandFrame_wholeFrames _) (bulkReadFrame_wholeFrames _)
  exact (leads_of_wholeFrames hframes false).thenReceived fun r =>
    (leads_updates (runs_deviceInfoUpdates r)).andThen (hk r)

theorem leads_setupClear (reversed : Bool) (r : List Word) :
    Leads (·.settled = true) (setupClear reversed r) (·.settled = true) := by
  unfold setupClear
  split
  · exact leads_settled_of_wholeFrames updates_nil_wholeFrames
  · exact leads_settled_of_wholeFrames (clearPanel_wholeFrames _ _ _ _ _)

theorem leads_writeFb {a : Nat} {v : Byte} (ha : a < Config.P_FB_CAPACITY) :
    Leads (·.settled = true) (updates [.writeFb a v]) (·.settled = true) := by
  refine leads_updates (Runs.single (fun s hs => (s.settled_iff.1 hs).1) fun s hs => ?_)
  obtain ⟨hout, hlc⟩ := s.settled_iff_standsAt.1 hs
  exact (State.settled_iff_standsAt _).2 ⟨State.standsAt_writeFb ha hout, hlc⟩

/-- A settled state short of READY does not know its geometry (10_state.md R35). -/
theorem State.settledWith_of_lc {s : State} (h : s.settled = true) (hlc : s.lc ≠ .ready) : s.settledWith false := by
  obtain ⟨_, _, hgeom⟩ := s.settled_iff.1 h
  exact ⟨h, by simpa [hlc] using hgeom⟩

/-- The script leads soundly from every settled state in the operation's gate set to a settled state. -/
def Settles (i : Instr) (sc : Script) : Prop :=
  Leads (fun s => s.settled = true ∧ gateAllows i s.lc = true) sc (·.settled = true)

theorem settles_of_leads {i : Instr} {sc : Script} (h : Leads (·.settled = true) sc (·.settled = true)) :
    Settles i sc := h.imp (fun _ hs => hs.1) fun _ hs => hs

theorem settles_of_wholeFrames {i : Instr} {sc : Script} (h : Sends sc wholeFrames) : Settles i sc :=
  settles_of_leads (leads_settled_of_wholeFrames h)

/-- An operation not allowed in READY starts with the geometry unknown. -/
theorem settles_of_bringUp {i : Instr} {sc : Script} (hg : gateAllows i .ready = false)
    (h : Leads (·.settledWith false) sc (·.settled = true)) : Settles i sc := by
  refine h.imp (fun s hs => ?_) fun _ hs => hs
  obtain ⟨hset, hgate⟩ := hs
  refine State.settledWith_of_lc hset fun hr => ?_
  rw [hr, hg] at hgate
  cases hgate

theorem settles_of_bringUp_unknown {i : Instr} {sc : Script} (hg : gateAllows i .ready = false)
    (h : Leads (·.settledWith false) sc (·.settledWith false)) : Settles i sc :=
  settles_of_bringUp hg (h.imp (fun _ hs => hs) fun _ hs => hs.1)

theorem script_settles {i : Instr} {s : State} {l : Latches} {sc : Script} (h : bodyOf i s l = .ok sc) :
    Settles i sc := by
  cases i <;> simp only [bodyOf] at h
  case nop => cases h; exact settles_of_wholeFrames updates_nil_wholeFrames
  case waitBusyLine => cases h; exact settles_of_wholeFrames (wire_wholeFrames rfl rfl)
  case pollBusyReg => cases h; exact settles_of_wholeFrames (pollBusyRegister_wholeFrames _)
  case writeCommand => cases h; exact settles_of_wholeFrames (commandFrame_wholeFrames _)
  case writeWord => cases h; exact settles_of_wholeFrames (wire_wholeFrames rfl (wholeFrames_traceWR _))
  case writeRegister => cases h; exact settles_of_wholeFrames (wire_wholeFrames rfl (wholeFrames_traceREG _ _))
  case setTargetAddr =>
    cases h
    exact settles_of_wholeFrames
      (wire_wholeFrames rfl (wholeFrames_append (wholeFrames_traceREG _ _) (wholeFrames_traceREG _ _)))
  case writeArgs => cases h; exact settles_of_wholeFrames (argsFrames_wholeFrames _ _)
  case readWord =>
    cases h
    exact settles_of_leads ((leads_settled_of_wholeFrames (bulkReadFrame_wholeFrames 1)).thenReceived fun _ =>
      leads_unseen (setRdata_unseen _))
  case readRegister =>
    cases h
    exact settles_of_leads ((leads_settled_of_wholeFrames (readRegisterFrames_wholeFrames _)).thenReceived fun _ =>
      leads_unseen (setRdata_unseen _))
  case readWords =>
    split at h <;> cases h
    exact settles_of_leads ((leads_settled_of_wholeFrames (bulkReadFrame_wholeFrames _)).thenReceived fun _ =>
      leads_unseen (copyOutFrom_unseen 0 _))
  case resetPanel => cases h; exact settles_of_bringUp_unknown rfl leads_resetPanelScript
  case systemRun => cases h; exact settles_of_bringUp_unknown rfl leads_systemRunScript
  case configure => cases h; exact settles_of_bringUp_unknown rfl leads_configureScript
  case getDeviceInfo =>
    cases h
    exact settles_of_bringUp rfl (leads_getDeviceInfoScript fun _ =>
      leads_settled_of_wholeFrames updates_nil_wholeFrames)
  case setup =>
    cases h
    exact settles_of_bringUp rfl (leads_resetPanelScript.andThen (leads_systemRunScript.andThen
      (leads_configureScript.andThen (leads_getDeviceInfoScript (leads_setupClear _)))))
  case setPixel =>
    split at h
    · cases h; exact settles_of_wholeFrames updates_nil_wholeFrames
    split at h <;> cases h
    exact settles_of_leads (leads_writeFb (by omega))
  case readFbByte =>
    split at h <;> cases h
    exact settles_of_leads (leads_unseen (setRdata_unseen _))
  case writeRegion =>
    split at h
    · cases h; exact settles_of_wholeFrames updates_nil_wholeFrames
    split at h
    · cases h
    split at h <;> cases h
    exact settles_of_wholeFrames (areaLoad_wholeFrames _ _ _ _ _ _)
  case updateRegion =>
    split at h
    · cases h; exact settles_of_wholeFrames updates_nil_wholeFrames
    split at h <;> cases h
    exact settles_of_wholeFrames (updateArea_wholeFrames _ _ _ _ _ _ _ _)
  case writeDisplay =>
    split at h
    · cases h; exact settles_of_wholeFrames updates_nil_wholeFrames
    split at h <;> cases h
    exact settles_of_wholeFrames ((areaLoad_wholeFrames _ _ _ _ _ _).andThen_wholeFrames
      (updateArea_wholeFrames _ _ _ _ _ _ _ _))
  case clear => cases h; exact settles_of_wholeFrames (clearPanel_wholeFrames _ _ _ _ _)

/-! ## Steps -/

/-- What RESET_IN holds, read as the fields it leaves (70_reset_and_hazards.md R340). -/
theorem State.heldInReset_iff (s : State) : s.heldInReset = true ↔ ∃ asserted epoch env inbox reads draws,
    s = { State.reset with
      resetIn := asserted, fbEpoch := epoch, env := env, inbox := inbox, busReads := reads, readDraws := draws } := by
  rw [State.heldInReset, decide_eq_true_eq]
  refine ⟨fun h => ⟨_, _, _, _, _, _, h⟩, ?_⟩
  rintro ⟨_, _, _, _, _, _, rfl⟩
  rfl

/-- The part of the invariant that does not speak of RESET_IN. -/
def State.onCourse (s : State) : Prop :=
  match s.seq with
  | .idle => s.settled = true
  | .running _ _ rest => rest ≠ [] ∧ soundRun rest s = true

theorem State.inv_iff (s : State) :
    s.inv = true ↔ s.onCourse ∧ (s.resetIn = true → s.heldInReset = true) := by
  unfold State.inv State.onCourse
  cases s.seq <;> simp [imp_iff_not_or]

theorem State.onCourse_congr {s t : State} (h : s.onCourse) (hv : t.vitals = s.vitals) (hs : t.seq = s.seq) :
    t.onCourse := by
  unfold State.onCourse at *
  rw [hs]
  cases hq : s.seq with
  | idle => simpa [hq, State.settled_congr hv] using h
  | running op pos rest => simpa [hq, soundRun_congr hv] using h

/-- A step out of reset need only keep the engine on course. -/
theorem State.inv_of_onCourse {s : State} (hr : s.resetIn = false) (h : s.onCourse) : s.inv = true :=
  s.inv_iff.2 ⟨h, fun ha => by simp [hr] at ha⟩

/-- What lies outside the block is nothing to the invariant. -/
theorem State.inv_outside {s : State} (h : s.inv = true) (ib : List HostStep) (rs : List (BitVec 8 × Word)) (n : Nat) :
    ({ s with inbox := ib, busReads := rs, readDraws := n } : State).inv = true := by
  obtain ⟨hcourse, hheld⟩ := s.inv_iff.1 h
  refine (State.inv_iff _).2 ⟨State.onCourse_congr hcourse rfl rfl, fun ha => ?_⟩
  obtain ⟨_, _, _, _, _, _, rfl⟩ := s.heldInReset_iff.1 (hheld ha)
  exact (State.heldInReset_iff _).2 ⟨_, _, _, _, _, _, rfl⟩

/-- A running engine is out of reset: an asserted RESET_IN holds it idle. -/
theorem State.resetIn_of_busy {s : State} (h : s.inv = true) (hb : s.seq ≠ .idle) : s.resetIn = false := by
  by_contra hr
  obtain ⟨_, hheld⟩ := s.inv_iff.1 h
  obtain ⟨_, _, _, _, _, _, rfl⟩ := s.heldInReset_iff.1 (hheld (by simpa using hr))
  exact hb rfl

/-- The engine part-way through a sound run is on course. -/
theorem State.onCourse_of_soundRun {s : State} {ms : List Micro} (h : soundRun ms s = true) (n pos : Nat) (op : Instr) :
    ((s.performAll (ms.take n)).withSeq (seqAt op pos (ms.drop n))).onCourse := by
  have hrest := soundRun_drop h n
  cases hd : ms.drop n with
  | nil => rwa [hd] at hrest
  | cons m rest =>
    rw [hd] at hrest
    refine ⟨by simp, ?_⟩
    rwa [soundRun_withSeq]

/-- The engine's turn keeps the invariant (41_handshake.md R150). -/
theorem State.inv_engineTurn {s : State} (h : s.inv = true) : s.engineTurn.inv = true := by
  cases hq : s.seq with
  | idle =>
    rw [State.engineTurn_idle s hq]
    exact State.inv_outside h _ s.busReads s.readDraws
  | running op pos rest =>
    have hr : s.resetIn = false := State.resetIn_of_busy h (by simp [hq])
    obtain ⟨hcourse, _⟩ := s.inv_iff.1 h
    simp only [State.onCourse, hq] at hcourse
    obtain ⟨hne, hrun⟩ := hcourse
    obtain ⟨m, ms, rfl⟩ := List.exists_cons_of_ne_nil hne
    have hself : s.withSeq (seqAt op pos (m :: ms)) = s := State.withSeq_self _ _ hq
    rw [← hself, State.engineTurn_seqAt]
    exact State.inv_of_onCourse (by simpa using hr)
      (State.onCourse_congr (State.onCourse_of_soundRun hrun _ _ op) rfl rfl)

/-- Starting an operation on a settled block out of reset keeps the invariant. -/
theorem State.inv_launch {s : State} {op : Instr} {script : Script} (hr : s.resetIn = false)
    (h : soundRun (script s.env).1 s = true) : (s.launch op script).inv = true := by
  rw [State.launch_eq]
  exact State.inv_of_onCourse (by simpa using hr) (State.onCourse_congr (State.onCourse_of_soundRun h _ _ op) rfl rfl)

/-- Issuing an instruction out of reset keeps the invariant. -/
theorem exec_inv {i : Instr} {s t : State} (h : exec i s = .next t) (hr : s.resetIn = false) (hs : s.onCourse) :
    t.inv = true := by
  rcases exec_next h with ⟨c, rfl, _⟩ | ⟨hidle, hgate, _, script, hb, rfl⟩
  · exact State.inv_of_onCourse hr (State.onCourse_congr hs rfl rfl)
  · have hset : s.settled = true := by simpa [State.onCourse, hidle] using hs
    exact State.inv_launch hr ((soundRun_iff _ s).2 (script_settles hb s.env s ⟨hset, hgate⟩))

/-- A host write out of reset keeps the invariant. -/
theorem State.hostWrite_inv {s t : State} {off : BitVec 8} {w : Word} (h : s.hostWrite off w = .next t)
    (hr : s.resetIn = false) (hs : s.onCourse) : t.inv = true := by
  have hkept : ∀ u : State, u.resetIn = s.resetIn → u.vitals = s.vitals → u.seq = s.seq → u.inv = true :=
    fun u hur huv hus => State.inv_of_onCourse (hur.trans hr) (State.onCourse_congr hs huv hus)
  unfold State.hostWrite at h
  split at h
  case h_1 =>
    unfold State.writeCmd at h
    split at h
    · cases h
      exact hkept _ rfl rfl rfl
    · split at h
      · cases h
        exact hkept _ rfl rfl rfl
      · exact exec_inv h hr (State.onCourse_congr hs rfl rfl)
  all_goals
    cases h
    exact hkept _ rfl rfl rfl

/-- An asserted RESET_IN leaves the state after engine reset, which is settled (70_reset_and_hazards.md R340). -/
theorem State.engineReset_inv (s : State) : s.engineReset.inv = true := by
  have hset : s.engineReset.settled = true := (State.settled_congr (s := State.reset) rfl).trans (by decide)
  exact (State.inv_iff _).2 ⟨hset, fun _ => (State.heldInReset_iff _).2 ⟨_, _, _, _, _, _, rfl⟩⟩

/-- A host act keeps the invariant. -/
theorem State.hostAct_inv {s t : State} {a : HostAct} (h : s.hostAct a = .next t) (hs : s.inv = true) :
    t.inv = true := by
  have hcourse := (s.inv_iff.1 hs).1
  cases a with
  | resetIn asserted =>
    cases asserted <;> cases h
    · exact State.inv_of_onCourse rfl (State.onCourse_congr hcourse rfl rfl)
    · exact s.engineReset_inv
  | read width off =>
    simp only [State.hostAct] at h
    split at h <;> cases h
    unfold State.hostRead
    split
    · exact State.inv_outside hs s.inbox _ _
    · exact State.inv_outside hs s.inbox _ s.readDraws
  | write width off w =>
    simp only [State.hostAct] at h
    split at h
    · cases h
    · cases hr : s.resetIn
      · exact State.hostWrite_inv (by simpa [hr] using h) hr hcourse
      · simp only [hr, if_true] at h
        cases h
        exact hs

/-- Settles O24: a step is the engine's turn or a host act, and each keeps the invariant. -/
theorem everyStepKeepsTheInvariant : Obligations.EveryStepKeepsTheInvariant := by
  intro s t hs h
  rcases step_cases s with hturn | ⟨a, rest, _, hact⟩
  · cases hturn.symm.trans h
    exact State.inv_engineTurn hs
  · exact State.hostAct_inv (hact.symm.trans h) (State.inv_outside hs rest s.busReads s.readDraws)

end Sys2Proof.Machine
end

section
/-! The command word field by field, the opcode map read in both directions, and the obligations about the decoder and the
encoder (30_encoding.md R110 to R115). -/

namespace Sys2Proof

/-! ## Fields of a command word (R110) -/

@[simp] theorem opcField_encode (i : Instr) : opcField (encode i) = i.opcode := BitVec.extractLsb'_append_eq_right

@[simp] theorem cntField_encode (i : Instr) : cntField (encode i) = i.count :=
  (BitVec.extractLsb'_append_eq_of_le (by decide)).trans BitVec.extractLsb'_append_eq_right

@[simp] theorem rsvField_encode (i : Instr) : rsvField (encode i) = 0 :=
  (BitVec.extractLsb'_append_eq_of_le (by decide)).trans BitVec.extractLsb'_append_eq_left

/-- The three fields cover the word: none of its bits lies outside them. -/
theorem rsvField_append_cntField_append_opcField (c : Word) : rsvField c ++ cntField c ++ opcField c = c := by
  have hhigh : rsvField c ++ cntField c = c.extractLsb' 8 8 := BitVec.extractLsb'_append_extractLsb'_eq_extractLsb' rfl
  rw [hhigh]
  exact BitVec.extractLsb'_append_extractLsb'

theorem toNat_opcField (c : Word) : (opcField c).toNat = c.toNat % 256 := by
  rw [opcField, BitVec.extractLsb'_toNat, Nat.shiftRight_zero]

theorem toNat_cntField (c : Word) : (cntField c).toNat = c.toNat / 256 % 16 := by
  rw [cntField, BitVec.extractLsb'_toNat, Nat.shiftRight_eq_div_pow]

theorem toNat_rsvField (c : Word) : (rsvField c).toNat = c.toNat / 4096 := by
  have hc := c.isLt
  rw [rsvField, BitVec.extractLsb'_toNat, Nat.shiftRight_eq_div_pow]
  omega

/-! ## The count of an instruction -/

theorem Instr.count_eq_zero {i : Instr} (h : i.opcode ≠ 0x14) : i.count = 0 := by
  cases i with
  | writeArgs cnt => exact absurd rfl h
  | _ => rfl

theorem Instr.wellFormed_iff (i : Instr) : i.wellFormed = true ↔ i.count.toNat ≤ Config.P_MAX_ARGS := by
  cases i with
  | writeArgs cnt => exact decide_eq_true_iff
  | _ => exact iff_of_true rfl (Nat.zero_le _)

/-! ## The opcode map (R112) -/

/-- An opcode has the instruction whose opcode it is; only WRITE_ARGS takes its count from the word. -/
theorem instrOfOpcode_eq_some_iff {cnt : BitVec 4} {opc : BitVec 8} {i : Instr} :
    instrOfOpcode cnt opc = some i ↔ opc = i.opcode ∧ (opc = 0x14 → cnt = i.count) := by
  constructor
  · intro h
    unfold instrOfOpcode at h
    split at h <;> cases h
    all_goals
      rename_i hopc
      obtain rfl := Machine.offset_eq hopc
      exact ⟨rfl, by simp [Instr.count]⟩
  · rintro ⟨rfl, hcnt⟩
    cases i with
    | writeArgs n => rw [hcnt rfl]; rfl
    | _ => rfl

/-- The reserved opcodes (R115). -/
theorem instrOfOpcode_eq_none_iff {cnt : BitVec 4} {opc : BitVec 8} :
    instrOfOpcode cnt opc = none ↔
      (0x03 ≤ opc.toNat ∧ opc.toNat ≤ 0x0F) ∨ (0x18 ≤ opc.toNat ∧ opc.toNat ≤ 0x1F) ∨
      (0x25 ≤ opc.toNat ∧ opc.toNat ≤ 0x2F) ∨ (0x32 ≤ opc.toNat ∧ opc.toNat ≤ 0x3F) ∨ 0x44 ≤ opc.toNat := by
  unfold instrOfOpcode
  split
  case h_23 =>
    simp only [imp_false, true_iff] at *
    omega
  all_goals
    simp only [reduceCtorEq, false_iff]
    omega

/-! ## The decoder (R114) -/

/-- A word decodes exactly if it passes the four checks. -/
theorem decode_eq_ok_iff_checks {c : Word} {i : Instr} :
    decode c = .ok i ↔ rsvField c = 0 ∧ instrOfOpcode (cntField c) (opcField c) = some i ∧
      (opcField c ≠ 0x14 → cntField c = 0) ∧ (opcField c = 0x14 → (cntField c).toNat ≤ Config.P_MAX_ARGS) := by
  unfold decode
  split
  case isTrue hrsv => exact iff_of_false nofun fun h => hrsv h.1
  case isFalse hrsv =>
    split
    case h_1 hopc => simp [hopc]
    case h_2 hopc => split_ifs <;> simp_all

/-- A word decodes to an instruction exactly if its fields are that instruction's and the count is one it may have. -/
theorem decode_eq_ok_iff {c : Word} {i : Instr} :
    decode c = .ok i ↔ rsvField c = 0 ∧ opcField c = i.opcode ∧ cntField c = i.count ∧ i.wellFormed = true := by
  rw [decode_eq_ok_iff_checks, instrOfOpcode_eq_some_iff, Instr.wellFormed_iff]
  constructor
  · rintro ⟨hrsv, ⟨hopc, hcnt⟩, hzero, hmax⟩
    by_cases hargs : opcField c = 0x14
    · exact ⟨hrsv, hopc, hcnt hargs, hcnt hargs ▸ hmax hargs⟩
    · have hi : i.count = 0 := Instr.count_eq_zero (hopc ▸ hargs)
      exact ⟨hrsv, hopc, (hzero hargs).trans hi.symm, by simp [hi]⟩
  · rintro ⟨hrsv, hopc, hcnt, hmax⟩
    exact ⟨hrsv, ⟨hopc, fun _ => hcnt⟩, fun hargs => hcnt.trans (Instr.count_eq_zero (hopc ▸ hargs)),
      fun _ => hcnt ▸ hmax⟩

/-- A word is refused exactly if it fails one of the four checks. -/
theorem exists_decode_eq_error_iff (c : Word) :
    (∃ e, decode c = .error e) ↔ rsvField c ≠ 0 ∨ instrOfOpcode (cntField c) (opcField c) = none ∨
      (opcField c ≠ 0x14 ∧ cntField c ≠ 0) ∨ (opcField c = 0x14 ∧ Config.P_MAX_ARGS < (cntField c).toNat) := by
  unfold decode
  split
  case isTrue hrsv => exact iff_of_true ⟨_, rfl⟩ (.inl hrsv)
  case isFalse hrsv =>
    split
    case h_1 hopc => simp [hopc]
    case h_2 hopc => split_ifs <;> simp_all

/-- A table word of all 16 bits is read as the command word it is. -/
theorem decodeTableWord_toNat (c : Word) : decodeTableWord 16 c.toNat = (decode c).toOption := by
  rw [decodeTableWord, if_pos ⟨le_rfl, c.isLt⟩, BitVec.ofNat_toNat, BitVec.setWidth_eq]
  cases decode c <;> rfl

/-! ## The obligations -/

/-- Settles O1: the fields of the encoding are the instruction's, so the decoder finds it again. -/
theorem decodeOfEncodeIsTheInstruction : Obligations.DecodeOfEncodeIsTheInstruction := by
  intro i hwf
  have hdecode : decode (encode i) = .ok i :=
    decode_eq_ok_iff.2 ⟨rsvField_encode i, opcField_encode i, cntField_encode i, hwf⟩
  exact ⟨hdecode, by rw [decodeTableWord_toNat, hdecode]; rfl⟩

/-- Settles O2: a word that decodes has the fields of its instruction, and the fields cover the word. -/
theorem encodeOfDecodeIsTheWord : Obligations.EncodeOfDecodeIsTheWord := by
  intro c i h
  obtain ⟨hrsv, hopc, hcnt, hwf⟩ := decode_eq_ok_iff.1 h
  refine ⟨hwf, ?_⟩
  calc encode i = rsvField c ++ cntField c ++ opcField c := by rw [hrsv, hcnt, hopc]; rfl
    _ = c := rsvField_append_cntField_append_opcField c

/-- Settles O3: the four failed checks as ranges of the three fields. -/
theorem illegalWordsAreTheReservedOnes : Obligations.IllegalWordsAreTheReservedOnes := by
  intro c opc cnt
  rw [exists_decode_eq_error_iff, instrOfOpcode_eq_none_iff]
  simp only [ne_eq, ← BitVec.toNat_inj, toNat_rsvField, toNat_opcField, toNat_cntField, or_assoc]
  rfl

/-- Settles O4: each word is evaluated. -/
theorem sampleCommandWordsDecode : Obligations.SampleCommandWordsDecode := by
  unfold Obligations.SampleCommandWordsDecode
  decide

end Sys2Proof
end

section
/-! The obligation about a refused command word (30_encoding.md R114). -/

namespace Sys2Proof.Machine

/-- A due CMD write out of reset is the write of CMD (10_state.md R32). -/
theorem step_writeCmd {s : State} {w : Word} {rest : List HostStep} (h : s.comesNext (.write 16 0x00 w) rest)
    (hr : s.resetIn = false) : step s = (s.withInbox rest).writeCmd w := by
  have hreg : hostReg 0x00 = .cmd := by decide
  rw [step_write h (by decide) hr, State.hostWrite, hreg]

theorem State.writeCmd_illegal {s : State} {w : Word} {e : DecodeError} (hb : s.busy = false)
    (hd : decode w = .error e) : s.writeCmd w = .next ((s.withCmd w).raise .errIllegal) := by
  simp [State.writeCmd, hb, hd]

/-- Settles O6: the write is refused by the decoder, and raising is setting the flag. -/
theorem illegalCommandSetsErrIllegal : Obligations.IllegalCommandSetsErrIllegal := by
  intro s rest w e hs hr hc hd
  have hidle : (s.withInbox rest).busy = false := State.busy_of_idle hs
  rw [step_writeCmd hc hr, State.writeCmd_illegal hidle hd]
  rfl

end Sys2Proof.Machine
end

section
/-! The obligation about the lines of a host program (30_encoding.md R117, R118). -/

namespace Sys2Proof.Machine

/-- The ARG writes of an operand list, one register after another from ARG0 on. -/
theorem assemble_argLines {ops : List Word} (h : ops.length ≤ 9) :
    assemble (argLines ops) = ops.mapIdx fun i v => ⟨some 0, .write 16 (BitVec.ofNat 8 (0x08 + 2 * i)) v⟩ := by
  refine List.ext_getElem (by simp [assemble, argLines]) fun i _ hi => ?_
  rw [List.length_mapIdx] at hi
  have hreg : i % Config.P_ARGS = i := Nat.mod_eq_of_lt (hi.trans_le h)
  simp [assemble, argLines, AsmLine.step, hreg]

/-- The operand form: the ARG writes, the CMD write, the read that finds the engine idle. -/
theorem assemble_operandForm (i : Instr) {ops : List Word} (h : ops.length ≤ 9) :
    assemble (operandForm i ops) =
      (ops.mapIdx fun k v => ⟨some 0, .write 16 (BitVec.ofNat 8 (0x08 + 2 * k)) v⟩)
        ++ [⟨some 0, .write 16 0x00 (encode i)⟩, ⟨none, .read 16 0x02⟩] := by
  rw [← assemble_argLines h]
  simp [assemble, operandForm, AsmLine.step]

theorem encode_writeArgs {n : Nat} (h : n ≤ 8) :
    encode (.writeArgs (BitVec.ofNat 4 n)) = BitVec.ofNat 16 (n * 256 + 0x14) := by
  interval_cases n <;> rfl

/-- Settles O59: each form is an operand form, whose expansion is the list of its operands' writes. -/
theorem hostNotationExpands : Obligations.HostNotationExpands := by
  refine ⟨fun a => ?targetAddr, fun a => ?readFb, fun x y w h src => ?region, fun c args hlen => ?writeArgs, by decide⟩
  case targetAddr => exact assemble_operandForm .setTargetAddr (by simp)
  case readFb => exact assemble_operandForm .readFbByte (by simp)
  case region => exact assemble_operandForm .writeRegion (by simp)
  case writeArgs =>
    have hops : (c :: args).length ≤ 9 := Nat.succ_le_succ hlen
    rw [writeArgsForm, assemble_operandForm _ hops, encode_writeArgs hlen, List.mapIdx_cons]
    have hoff : ∀ k, 0x08 + 2 * (k + 1) = 0x0A + 2 * k := fun k => by omega
    simp only [hoff]
    rfl

end Sys2Proof.Machine
end

section
/-! The obligation about the counts of frames and units, and the waits of a data phase (30_encoding.md R125, R126, R132;
41_handshake.md R157). -/

namespace Sys2Proof.Machine

/-! ## Counts of a trace -/

theorem frameCount_append (t u : List Event) : frameCount (t ++ u) = frameCount t + frameCount u := by
  simp [frameCount]

/-- How the waits of a trace ended does not count. -/
theorem frameCount_untimed (t : List Event) : frameCount (t.map Event.untimed) = frameCount t := by
  induction t with
  | nil => rfl
  | cons e t ih =>
    have hhead : frameCount [e.untimed] = frameCount [e] := by cases e <;> rfl
    rw [List.map_cons, ← List.singleton_append, frameCount_append, hhead, ih, ← frameCount_append, List.singleton_append]

theorem frameCount_traceCMD (c : Word) : frameCount (traceCMD c) = (1, 2, 0) := rfl

theorem frameCount_traceWR (d : Word) : frameCount (traceWR d) = (1, 2, 0) := rfl

theorem frameCount_traceREG (a v : Word) : frameCount (traceREG a v) = (3, 6, 0) := rfl

theorem frameCount_traceARGS (c : Word) (args : List Word) :
    frameCount (traceARGS c args) = (1 + args.length, 2 + 2 * args.length, 0) := by
  have hargs : frameCount (args.flatMap traceWR) = (args.length, 2 * args.length, 0) := by
    induction args with
    | nil => rfl
    | cons d ds ih =>
      rw [List.flatMap_cons, frameCount_append, ih, frameCount_traceWR]
      simp [Nat.mul_add, Nat.add_comm]
  rw [traceARGS, frameCount_append, hargs, frameCount_traceCMD]
  rfl

theorem frameCount_map_rx (ds : List Word) : frameCount (ds.map .rx) = (0, 0, ds.length) := by
  simp [frameCount, List.countP_map, Function.comp_def]

theorem frameCount_map_tx (ws : List Word) : frameCount (ws.map .tx) = (0, ws.length, 0) := by
  simp [frameCount, List.countP_map, Function.comp_def]

theorem frameCount_traceRDS (ds : List Word) : frameCount (traceRDS ds) = (1, 2, ds.length) := by
  rw [traceRDS, frameCount_append, frameCount_append, frameCount_map_rx]
  simp [frameCount]

theorem frameCount_traceStream (ws : List Word) : frameCount (traceStream ws) = (1, 1 + ws.length, 0) := by
  rw [traceStream, frameCount_append, frameCount_append, frameCount_map_tx]
  simp [frameCount]

/-! ## Counts of what primitives put on the wire -/

/-- Select frames, TX units and RX units of the events a list of primitives leaves under the environment's choices. -/
def wireCount (ps : List Prim) (e : Env) : Nat × Nat × Nat := frameCount (eventsOf (wire ps e).1)

/-- The environment chooses how waits end and which words come, and neither counts. -/
theorem wireCount_eq (ps : List Prim) (e : Env) :
    wireCount ps e = frameCount (primEvents ps (Env.coming (rxCount ps) e)) := by
  rw [wireCount, ← frameCount_untimed, wire_events, wire_received]

theorem wireCount_of_rxCount_zero {ps : List Prim} (h : rxCount ps = 0) (e : Env) :
    wireCount ps e = frameCount (primEvents ps []) := by
  rw [wireCount_eq, h, Env.coming]

theorem wireCount_commandFrame (c : Word) (e : Env) : wireCount (commandFrame c) e = (1, 2, 0) := by
  rw [wireCount_of_rxCount_zero (by simp), primEvents_commandFrame, frameCount_traceCMD]

theorem wireCount_writeFrame (d : Word) (e : Env) : wireCount (writeFrame d) e = (1, 2, 0) := by
  rw [wireCount_of_rxCount_zero (by simp), primEvents_writeFrame, frameCount_traceWR]

theorem wireCount_writeRegisterFrames (a v : Word) (e : Env) : wireCount (writeRegisterFrames a v) e = (3, 6, 0) := by
  rw [wireCount_of_rxCount_zero (by simp), primEvents_writeRegisterFrames, frameCount_traceREG]

theorem wireCount_targetAddrFrames (addr : BitVec 32) (e : Env) : wireCount (targetAddrFrames addr) e = (6, 12, 0) := by
  rw [wireCount_of_rxCount_zero (by simp), primEvents_targetAddrFrames, frameCount_append, frameCount_traceREG,
    frameCount_traceREG]
  rfl

theorem wireCount_argsFrames (c : Word) (args : List Word) (e : Env) :
    wireCount (argsFrames c args) e = (1 + args.length, 2 + 2 * args.length, 0) := by
  rw [wireCount_of_rxCount_zero (by simp), primEvents_argsFrames, frameCount_traceARGS]

theorem wireCount_streamFrame (ws : List Word) (e : Env) :
    wireCount (streamFrame false ws) e = (1, 1 + ws.length, 0) := by
  rw [wireCount_of_rxCount_zero (by simp), primEvents_streamFrame, frameCount_traceStream]

theorem wireCount_bulkReadFrame (n : Nat) (e : Env) : wireCount (bulkReadFrame false n) e = (1, 2, n) := by
  have hevents := primEvents_bulkReadFrame (Env.coming n e)
  rw [Env.length_coming] at hevents
  rw [wireCount_eq, rxCount_bulkReadFrame, hevents, frameCount_traceRDS, Env.length_coming]

theorem wireCount_readRegisterFrames (a : Word) (e : Env) : wireCount (readRegisterFrames a) e = (3, 6, 1) := by
  have hword : Env.coming 1 e = [e.drawRx.1] := rfl
  rw [wireCount_eq, rxCount_readRegisterFrames, hword, primEvents_readRegisterFrames, frameCount_append,
    frameCount_append, frameCount_traceCMD, frameCount_traceWR, traceRD, frameCount_traceRDS]
  rfl

/-! ## The waits of a data phase -/

theorem intersperse_cons_eq_flatMap {α : Type} (sep a : α) (as : List α) :
    (a :: as).intersperse sep = a :: as.flatMap fun b => [sep, b] := by
  induction as generalizing a with
  | nil => rfl
  | cons b bs ih => rw [List.intersperse_cons_cons, ih b, List.flatMap_cons]; rfl

theorem dataPhase_true_cons (u : Prim) (us : List Prim) :
    dataPhase true (u :: us) = u :: us.flatMap fun p => [.waitReady, p] :=
  intersperse_cons_eq_flatMap Prim.waitReady u us

/-- Settles O58, one sequence at a time. -/
theorem frameCounts : Obligations.FrameCounts := by
  refine ⟨fun u us => ⟨dataPhase_true_cons u us, rfl, rfl, rfl⟩, fun c d a v addr args ws e => ?counts⟩
  case counts =>
    exact ⟨wireCount_commandFrame c e, wireCount_writeFrame d e, wireCount_writeRegisterFrames a v e,
      wireCount_targetAddrFrames addr e, wireCount_argsFrames c args e, wireCount_bulkReadFrame 1 e,
      fun n => wireCount_bulkReadFrame n e, wireCount_readRegisterFrames a e, wireCount_streamFrame ws e⟩

end Sys2Proof.Machine
end

section
/-! The obligation about the end of an operation: SEL_OUT is inactive and its events are whole frames
(41_handshake.md R160, 70_reset_and_hazards.md R361). -/

namespace Sys2Proof.Machine

/-! ## TRACE and SEL_OUT after micro-steps -/

/-- A state update leaves TRACE and SEL_OUT (41_handshake.md R150). -/
theorem State.perform_of_event_none {m : Micro} (hm : m.event = none) (s : State) :
    (s.perform m).trace = s.trace ∧ (s.perform m).selOut = s.selOut := by
  cases m
  case sel | tx | rx | waitReady | rst | delay | pollTimeout => cases hm
  all_goals exact ⟨rfl, rfl⟩

theorem State.trace_perform (s : State) (m : Micro) : (s.perform m).trace = s.trace ++ m.event.toList := by
  cases hm : m.event with
  | some e => rw [State.perform_event hm, State.trace_afterEvents, Option.toList_some]
  | none => rw [(s.perform_of_event_none hm).1, Option.toList_none, List.append_nil]

theorem State.selOut_perform (s : State) (m : Micro) :
    (s.perform m).selOut = selAfter s.selOut m.event.toList := by
  cases hm : m.event with
  | some e => rw [State.perform_event hm, State.selOut_afterEvents, Option.toList_some]
  | none => exact (s.perform_of_event_none hm).2

theorem eventsOf_cons (m : Micro) (ms : List Micro) : eventsOf (m :: ms) = m.event.toList ++ eventsOf ms := by
  cases hm : m.event <;> simp [eventsOf, hm]

theorem State.trace_performAll (s : State) (ms : List Micro) : (s.performAll ms).trace = s.trace ++ eventsOf ms := by
  induction ms generalizing s with
  | nil => simp [eventsOf]
  | cons m ms ih => rw [State.performAll_cons, ih, State.trace_perform, eventsOf_cons, List.append_assoc]

theorem State.selOut_performAll (s : State) (ms : List Micro) :
    (s.performAll ms).selOut = selAfter s.selOut (eventsOf ms) := by
  induction ms generalizing s with
  | nil => rfl
  | cons m ms ih =>
    rw [State.performAll_cons, ih, State.selOut_perform, eventsOf_cons, selAfter, selAfter, selAfter, List.foldl_append]

/-! ## Every script sends whole frames -/

/-- An idle block in a lifecycle state, its TRACE empty. -/
def settledIn (l : Lifecycle) : State :=
  { State.reset with lc := l, geomKnown := decide (l = .ready), panelW := 4, panelH := 1 }

theorem settled_settledIn (l : Lifecycle) : (settledIn l).settled = true := by
  cases l <;> decide

/-- An operation's script keeps the frame discipline and ends outside a frame with SEL_OUT inactive. The events do not
depend on the state the script runs in, so it is enough to run it in one that is settled. -/
theorem script_wholeFrames {i : Instr} {s : State} {l : Latches} {sc : Script} (h : bodyOf i s l = .ok sc)
    {lc : Lifecycle} (hg : gateAllows i lc = true) (e : Env) :
    frameState (eventsOf (sc e).1) = some .outside ∧ selAfter .inactive (eventsOf (sc e).1) = .inactive := by
  obtain ⟨_, hend⟩ := script_settles h e (settledIn lc) ⟨settled_settledIn lc, hg⟩
  obtain ⟨⟨_, hframes⟩, _⟩ := (State.settled_iff_standsAt _).1 hend
  obtain ⟨_, hsel, _⟩ := (State.settled_iff _).1 hend
  rw [State.trace_performAll] at hframes
  rw [State.selOut_performAll] at hsel
  exact ⟨hframes, hsel⟩

/-- Settles O54: a rejection adds no event, and an accepted operation performs its whole script. -/
theorem operationsEndWithSelectInactive : Obligations.OperationsEndWithSelectInactive := by
  intro i s t hq hsel h
  rcases exec_next h with ⟨c, rfl, _⟩ | ⟨_, hg, _, script, hb, rfl⟩
  case inl => exact ⟨hq.1, hsel, [], by simp, rfl⟩
  case inr =>
    obtain ⟨hframes, hinactive⟩ := script_wholeFrames hb hg s.env
    rw [State.launch_quiet s i script hq.2]
    refine ⟨rfl, ?selOut, eventsOf (script s.env).1, s.trace_performAll _, hframes⟩
    case selOut =>
      change (s.performAll _).selOut = _
      rw [State.selOut_performAll, hsel, hinactive]

end Sys2Proof.Machine
end

section
/-! The obligation about an operation cut in on by host steps (41_handshake.md R150, 20_memory.md R95, R96). -/

namespace Sys2Proof.Machine

/-! ## Issuing an instruction does not look at the coming host steps -/

/-- What issuing an instruction comes to: the first check that stops it, or the script it starts
(60_exceptions.md R304). -/
def verdict (i : Instr) (s : State) : Except Stop Script :=
  if s.busy then .error (.reject .errOverrun)
  else if i.wellFormed = false then .error (.reject .errIllegal)
  else if gateAllows i s.lc = false then .error (.reject .errState)
  else bodyOf i s s.latchNow

/-- The outcome of a verdict. -/
def State.answer (s : State) (i : Instr) : Except Stop Script → Host.Outcome State Fault Refusal
  | .error (.reject c) => .next (s.setFlag c)
  | .error (.fault f) => .fault f
  | .ok script => .next (s.launch i script)

/-- An instruction without a command word is refused before the gate (30_encoding.md R114, log 26). -/
theorem exec_illFormed {i : Instr} (h : i.wellFormed = false) {s : State} (hb : s.busy = false) :
    exec i s = .next (s.setFlag .errIllegal) := by
  cases i
  case writeArgs cnt =>
    simp only [Instr.wellFormed, decide_eq_false_iff_not, Nat.not_le] at h
    simp only [exec, execWriteArgs, if_pos (And.intro h hb), State.raise]
  all_goals cases h

theorem exec_busy (i : Instr) {s : State} (hb : s.busy = true) : exec i s = .next (s.setFlag .errOverrun) := by
  cases i
  case writeArgs cnt => simp [exec, execWriteArgs, State.operate, hb, State.raise]
  all_goals exact if_pos hb

/-- Issuing any instruction answers its verdict. -/
theorem exec_eq_answer (i : Instr) (s : State) : exec i s = s.answer i (verdict i s) := by
  unfold verdict
  split
  case isTrue hb => exact exec_busy i hb
  case isFalse hb =>
    rw [Bool.not_eq_true] at hb
    split
    case isTrue hw => exact exec_illFormed hw hb
    case isFalse hw =>
      rw [Bool.not_eq_false] at hw
      rw [exec_eq hw, State.operate, hb, if_neg Bool.false_ne_true]
      split <;> rfl

theorem verdict_withInbox (i : Instr) (s : State) (ib : List HostStep) : verdict i (s.withInbox ib) = verdict i s := by
  cases i <;> rfl

/-! ## The rest of an operation that was cut in on -/

/-- The micro-steps a launch leaves take the block to the end of the operation (41_handshake.md R150). -/
theorem State.microSteps_launch (s : State) (op : Instr) (script : Script) :
    State.microSteps (s.launch op script).seq.left (s.launch op script)
      = (((s.performAll (script s.env).1).latched (script s.env).2).withSeq .idle).withInbox (dueInbox s.inbox) := by
  let ms := (script s.env).1
  let n := s.turnLength ms
  let u := ((s.performAll (ms.take n)).latched (script s.env).2).withInbox (dueInbox s.inbox)
  have hlaunch : s.launch op script = u.withSeq (seqAt op n (ms.drop n)) := s.launch_eq op script
  have hleft : (u.withSeq (seqAt op n (ms.drop n))).seq.left = (ms.drop n).length := Seq.left_seqAt _ _ _
  rw [hlaunch, hleft, State.microSteps_all, State.performAll_withInbox, State.performAll_latched,
    ← State.performAll_append, List.take_append_drop]
  rfl

/-- The end of a launched operation does not depend on the coming host steps. -/
theorem State.microSteps_launch_withInbox {s : State} (h : s.inbox = []) (ib : List HostStep) (op : Instr)
    (script : Script) :
    (State.microSteps ((s.withInbox ib).launch op script).seq.left ((s.withInbox ib).launch op script)).withInbox []
      = s.launch op script := by
  have hinbox : ∀ (u : State) (e : Env) (due : List HostStep),
      ((((u.withInbox ib).latched e).withSeq .idle).withInbox due).withInbox []
        = ((u.latched e).withSeq .idle).withInbox [] := fun _ _ _ => rfl
  rw [State.microSteps_launch, State.performAll_withInbox, hinbox, State.launch_quiet s op script h]
  exact State.withInbox_self _ _ (by simp [h])

/-- An instruction issued with host steps coming: its micro-steps lead where they lead undisturbed, and the next host
step is due when its turn ends. -/
theorem exec_withInbox {i : Instr} {s t : State} (hq : s.quiet) (h : exec i s = .next t) (ib : List HostStep) :
    ∃ a, exec i (s.withInbox ib) = .next a ∧ (State.microSteps a.seq.left a).withInbox [] = t ∧
      ∀ after act rest, ib = ⟨after, act⟩ :: rest → a.comesNext act rest := by
  rw [exec_eq_answer] at h
  rw [exec_eq_answer, verdict_withInbox]
  generalize verdict i s = v at h ⊢
  rcases v with (c | f) | script
  case error.fault => cases h
  case error.reject =>
    cases h
    refine ⟨_, rfl, ?_, fun after act rest hib => ⟨after, hib, .inl hq.1⟩⟩
    rw [State.microSteps_idle ((s.withInbox ib).setFlag c) _ hq.1]
    exact State.withInbox_self (s.setFlag c) [] hq.2
  case ok =>
    cases h
    refine ⟨_, rfl, ?_, fun after act rest hib => ⟨some 0, ?_, .inr rfl⟩⟩
    · exact State.microSteps_launch_withInbox hq.2 ib i script
    · subst hib
      rw [State.launch_eq]
      rfl

/-! ## A host read between two micro-steps -/

/-- What stands on the host's side of the block: its coming steps, the values it has read, and its draws. -/
def State.facing (s : State) (ib : List HostStep) (reads : List (BitVec 8 × Word)) (draws : Nat) : State :=
  { s with inbox := ib, busReads := reads, readDraws := draws }

theorem State.microStep_facing (s : State) (ib : List HostStep) (reads : List (BitVec 8 × Word)) (draws : Nat) :
    (s.facing ib reads draws).microStep = s.microStep.facing ib reads draws := by
  have hperform : ∀ m, (s.facing ib reads draws).perform m = (s.perform m).facing ib reads draws := by
    intro m
    cases m
    case waitReady timedOut => cases timedOut <;> rfl
    all_goals rfl
  have hseq : (s.facing ib reads draws).seq = s.seq := rfl
  unfold State.microStep
  rw [hseq]
  split
  · rfl
  · rfl
  · rw [hperform]
    rfl

/-- The engine does not look at the host's side. -/
theorem State.microSteps_facing (n : Nat) (s : State) (ib : List HostStep) (reads : List (BitVec 8 × Word))
    (draws : Nat) : State.microSteps n (s.facing ib reads draws) = (State.microSteps n s).facing ib reads draws := by
  induction n generalizing s with
  | zero => rfl
  | succ n ih => rw [State.microSteps, State.microStep_facing, ih, State.microSteps]

/-- A host read changes the host's side only (20_memory.md R92). -/
theorem State.hostRead_facing (s : State) (off : BitVec 8) :
    ∃ reads draws, s.hostRead off = s.facing s.inbox reads draws := by
  unfold State.hostRead
  split
  · exact ⟨_, _, rfl⟩
  · exact ⟨_, _, rfl⟩

/-- A due read and the engine's turn after it: the block ends where the engine would have taken it without the read. -/
theorem step_step_read {a : State} {off : BitVec 8} (hc : a.comesNext (.read 16 off) []) (he : off.toNat % 2 = 0) :
    ∃ b c reads draws, step a = .next b ∧ step b = .next c ∧
      c = (State.microSteps a.seq.left a).facing [] reads draws := by
  obtain ⟨reads, draws, hread⟩ := (a.withInbox []).hostRead_facing off
  have hb : (a.withInbox []).facing (a.withInbox []).inbox reads draws = a.facing [] reads draws := rfl
  refine ⟨a.facing [] reads draws, _, reads, draws, ?_, rfl, ?_⟩
  · rw [step_read hc he, hread, hb]
  · rw [State.engineTurn_nil _ rfl]
    exact State.microSteps_facing _ a _ _ _

/-- Settles O57: the first clause is `exec_withInbox`; in the second one step is the read and the next is the rest of
the operation. -/
theorem interruptedOperationEndsTheSame : Obligations.InterruptedOperationEndsTheSame := by
  intro i s t hq h
  refine ⟨fun ib => ?_, fun k off he => ?_⟩
  · obtain ⟨a, ha, hend, _⟩ := exec_withInbox hq h ib
    exact ⟨a, ha, hend⟩
  · obtain ⟨a, ha, hend, hnext⟩ := exec_withInbox hq h [⟨some k, .read 16 off⟩]
    obtain ⟨b, c, reads, draws, hb, hc, rfl⟩ := step_step_read (hnext _ _ _ rfl) he
    refine ⟨a, b, _, ha, hb, hc, ?_⟩
    rw [← hend]
    rfl

end Sys2Proof.Machine
end

section
/-! The obligations about NOP, WAIT_BUSY_LINE and POLL_BUSY_REG (41_handshake.md R165 to R167). -/

namespace Sys2Proof.Machine

/-! ## The gate of the wire operations -/

/-- An operation allowed in the traffic states is refused in UNRESET and in FAILED (60_exceptions.md R303). -/
theorem exec_gate_traffic {i : Instr} (hi : gateSet i = trafficStates) (hw : i.wellFormed = true) {s : State}
    (hs : s.seq = .idle) (hlc : s.lc = .unreset ∨ s.lc = .failed) : exec i s = .next (s.setFlag .errState) := by
  refine exec_gate hs ?_ hw
  rw [← Bool.not_eq_true, gateAllows_iff, hi]
  rcases hlc with h | h <;> simp [h, trafficStates]

theorem gateAllows_traffic {i : Instr} (hi : gateSet i = trafficStates) {l : Lifecycle} (hu : l ≠ .unreset)
    (hf : l ≠ .failed) : gateAllows i l = true := by
  rw [gateAllows_iff, hi]
  cases l <;> simp [trafficStates] at hu hf ⊢

/-! ## WAIT_BUSY_LINE -/

/-- A wait times out exactly if none of its samples is ready (41_handshake.md R154, R158). -/
theorem samplesTimeOut_iff (levels : List Bool) : samplesTimeOut levels = true ↔ true ∉ levels := by
  induction levels with
  | nil => simp [samplesTimeOut]
  | cons level more ih => cases level <;> simp [samplesTimeOut, Config.P_READY_LEVEL, ih]

theorem samplesTimeOut_eq_false_iff (levels : List Bool) : samplesTimeOut levels = false ↔ true ∈ levels := by
  rw [← Bool.not_eq_true, samplesTimeOut_iff, not_not]

/-- The operation is its one wait. -/
theorem exec_waitBusyLine {s : State} (hq : s.quiet) (hg : gateAllows .waitBusyLine s.lc = true) :
    exec .waitBusyLine s = .next ((s.perform (.waitReady s.env.drawWait.1)).latched s.env.drawWait.2) := by
  rw [exec_quiet hq hg rfl rfl, State.withSeq_self _ _ (by simpa using hq.1)]
  rfl

/-- Settles O31: the operation is its one wait, which times out exactly if no sample is ready. -/
theorem waitBusyLineSamplesUntilReady : Obligations.WaitBusyLineSamplesUntilReady := by
  refine ⟨by decide, fun s => exec_gate_traffic rfl rfl, fun s hq hu hf => ?_⟩
  have hexec := exec_waitBusyLine hq (gateAllows_traffic rfl hu hf)
  refine ⟨fun first more rest hw => ?scripted, s.env.drawWait.2, ?free⟩
  case scripted =>
    have hdraw : s.env.drawWait = (samplesTimeOut (first :: more), { s.env with waits := rest }) := by
      simp only [Env.drawWait, hw]
    rw [hexec, hdraw]
    refine ⟨fun hr => ?_, fun hr => ?_⟩
    · rw [(samplesTimeOut_eq_false_iff _).2 hr]
      rfl
    · rw [(samplesTimeOut_iff _).2 hr]
      rfl
  case free =>
    rw [hexec]
    cases s.env.drawWait.1
    · exact .inl rfl
    · exact .inr rfl

/-! ## POLL_BUSY_REG -/

theorem rxCount_rx_cons (ps : List Prim) : rxCount (.rx :: ps) = rxCount ps + 1 := by simp [rxCount]

/-- The words that come after a list of primitives has received its own. -/
theorem coming_wire (ps : List Prim) (n : Nat) (e : Env) :
    Env.coming n (wire ps e).2 = (Env.coming (rxCount ps + n) e).drop (rxCount ps) := by
  induction ps generalizing e with
  | nil => simp [wire, rxCount]
  | cons p ps ih =>
    cases p
    case rx =>
      rw [rxCount_rx_cons, Nat.add_right_comm]
      exact ih e.drawRx.2
    case waitReady =>
      rw [← Env.coming_congr (Env.drawWait_rx e).1 (Env.drawWait_rx e).2]
      exact ih e.drawWait.2
    all_goals exact ih e

/-- After one read of the busy register come the words after its own. -/
theorem coming_pollRead (n : Nat) (e : Env) : Env.coming n (pollRead e).2 = (Env.coming (n + 1) e).tail := by
  rw [pollRead, coming_wire, rxCount_readRegisterFrames, List.drop_one, Nat.add_comm]

/-- A first read of 0 ends the poll (41_handshake.md R159). -/
theorem pollReadsUpTo_of_zero (n : Nat) {e : Env} (h : e.drawRx.1 = 0) : pollReadsUpTo n e = pollRead e := by
  cases n with
  | zero => rw [pollReadsUpTo_zero, if_pos h]
  | succ n => rw [pollReadsUpTo_succ, if_pos h]

/-- A poll that reads no 0 makes all its reads and times out (41_handshake.md R159). -/
theorem pollReadsUpTo_events_of_ne_zero (n : Nat) {e : Env} (h : ∀ v ∈ Env.coming (n + 1) e, v ≠ 0) :
    (eventsOf (pollReadsUpTo n e).1).map Event.untimed
      = (Env.coming (n + 1) e).flatMap tracePOLL ++ [.pollTimeout] := by
  have hfirst : e.drawRx.1 ≠ 0 := h _ (List.mem_cons_self ..)
  induction n generalizing e with
  | zero =>
    rw [pollReadsUpTo_zero, if_neg hfirst, eventsOf_append, List.map_append, pollRead_events]
    simp [Env.coming, eventsOf, Micro.event, Event.untimed]
  | succ n ih =>
    have hrest : Env.coming (n + 1) (pollRead e).2 = Env.coming (n + 1) e.drawRx.2 := coming_pollRead (n + 1) e
    have hne : ∀ v ∈ Env.coming (n + 1) (pollRead e).2, v ≠ 0 := fun v hv =>
      h v (List.mem_cons_of_mem _ (hrest ▸ hv))
    rw [pollReadsUpTo_succ, if_neg hfirst, eventsOf_append, List.map_append, pollRead_events,
      ih hne (hne _ (List.mem_cons_self ..)), hrest, ← List.append_assoc]
    rfl

/-- The operation is the reads of one poll, of the length drawn. -/
theorem exec_pollBusyReg {s : State} (hq : s.quiet) (hg : gateAllows .pollBusyReg s.lc = true) {n : Nat} {e : Env}
    (hd : s.env.drawPoll (pollWindow (operand s.latchNow 0)) = (n, e)) :
    exec .pollBusyReg s
      = .next ((s.afterEvents (eventsOf (pollReadsUpTo n e).1)).latched (pollReadsUpTo n e).2) := by
  have hscript : pollBusyRegister (operand s.latchNow 0) s.env = pollReadsUpTo n e := by
    simp only [pollBusyRegister, hd]
  rw [exec_quiet hq hg rfl rfl, hscript, State.performAll_events (pollReadsUpTo_sends n e).1,
    State.withSeq_self _ _ (by simpa using hq.1)]

/-- A trace that shows a `P!` leaves WARN_TIMEOUT set. -/
theorem State.flag_afterEvents_pollTimeout {s : State} {evs : List Event}
    (h : Event.pollTimeout ∈ evs.map Event.untimed) : (s.afterEvents evs).flag .warnTimeout = true := by
  obtain ⟨e, he, hu⟩ := List.mem_map.1 h
  have htimeout : e.isTimeout = true := by
    cases e
    case readyTimeout | pollTimeout => rfl
    all_goals cases hu
  have hany : evs.any Event.isTimeout = true := List.any_eq_true.2 ⟨e, he, htimeout⟩
  simp [State.flag, State.afterEvents, hany, stickyMask, Cause.code]

/-- Settles O32: the trace is that of a poll whatever the controller answers, and the coming words decide where it
ends. -/
theorem pollBusyRegPollsUntilZero : Obligations.PollBusyRegPollsUntilZero := by
  refine ⟨by decide, fun s => exec_gate_traffic rfl rfl, fun s hq hu hf => ?shape,
    fun s n rest hq hu hf hp hone => ?timeout⟩
  case shape =>
    have hrx := s.env.drawPoll_rx (pollWindow (operand s.latchNow 0))
    cases hd : s.env.drawPoll (pollWindow (operand s.latchNow 0)) with
    | mk n e =>
      rw [hd] at hrx
      refine ⟨_, _, (pollReadsUpTo_sends n e).2, fun hzero => ?_,
        exec_pollBusyReg hq (gateAllows_traffic rfl hu hf) hd⟩
      rw [← Env.coming_congr hrx.1 hrx.2] at hzero
      have hfirst : e.drawRx.1 = 0 := List.singleton_injective hzero
      rw [pollReadsUpTo_of_zero n hfirst, pollRead_events, hfirst]
  case timeout =>
    have hd : s.env.drawPoll (pollWindow (operand s.latchNow 0)) = (n, { s.env with polls := rest }) := by
      simp only [Env.drawPoll, hp]
    have hcoming : Env.coming (n + 1) { s.env with polls := rest } = List.replicate (n + 1) 1 :=
      hone ▸ Env.coming_congr rfl rfl
    have hevents := pollReadsUpTo_events_of_ne_zero n (e := { s.env with polls := rest }) (by simp [hcoming])
    rw [hcoming] at hevents
    exact ⟨_, _, hevents, exec_pollBusyReg hq (gateAllows_traffic rfl hu hf) hd,
      State.flag_afterEvents_pollTimeout (by simp [hevents])⟩

/-! ## NOP -/

/-- A due CMD write while BUSY is dropped, whatever its word (60_exceptions.md R302). -/
theorem step_writeCmd_busy {s : State} {w : Word} {rest : List HostStep} (hb : s.busy = true) (hr : s.resetIn = false)
    (h : s.comesNext (.write 16 0x00 w) rest) :
    step s = .next (((s.withInbox rest).withCmd w).setFlag .errOverrun) := by
  rw [step_writeCmd h hr]
  exact if_pos hb

/-- Settles O30: NOP's script is empty, and any CMD write while BUSY is an overrun. -/
theorem nopDoesNothing : Obligations.NopDoesNothing := by
  refine ⟨by decide, fun s hq => ?_, fun s rest hb hr => step_writeCmd_busy hb hr⟩
  rw [exec_quiet hq rfl rfl rfl]
  exact congrArg _ (State.withSeq_self _ _ hq.1)

end Sys2Proof.Machine
end

section
/-! The obligations about the register and address sequencer, WRITE_COMMAND to READ_REGISTER
(42_registerio.md R180 to R188). -/

namespace Sys2Proof.Machine

/-! ## The two kinds of raw wire operation on a quiet block -/

section
variable {i : Instr} {s : State} {ps : List Prim} (hi : gateSet i = trafficStates) (hw : i.wellFormed = true)
  (hq : s.quiet) (hu : s.lc ≠ .unreset) (hf : s.lc ≠ .failed)
include hi hw hq hu hf

/-- An accepted operation whose frames receive nothing sends their events and changes nothing else but the latches. -/
theorem exec_writes (hb : bodyOf i s s.latchNow = .ok (wire ps)) (hrx : rxCount ps = 0) :
    ∃ evs env, evs.map Event.untimed = primEvents ps [] ∧ exec i s = .next ((s.afterEvents evs).latched env) :=
  exec_sends hq (gateAllows_traffic hi hu hf) hw hb (sends_wire hrx)

/-- An accepted operation whose frames receive one word stores that word in RDATA (42_registerio.md R186, R188). -/
theorem exec_readsRdata
    (hb : bodyOf i s s.latchNow = .ok (thenReceived (wire ps) fun ws => updates [.setRdata (ws.getLastD 0)]))
    (hrx : rxCount ps = 1) :
    ∃ evs env d, Env.coming 1 s.env = [d] ∧ evs.map Event.untimed = primEvents ps [d] ∧
      exec i s = .next (({ s.afterEvents evs with rdata := d } : State).latched env) := by
  obtain ⟨evs, env, hevs, hexec⟩ := exec_reads hq (gateAllows_traffic hi hu hf) hw hb
  rw [hrx] at hevs hexec
  exact ⟨evs, env, s.env.drawRx.1, rfl, hevs, hexec⟩

end

/-! ## The operand list of WRITE_ARGS (R184) -/

theorem length_argOperands (l : Latches) {n : Nat} (h : n ≤ 8) : (argOperands l n).length = n := by
  simp [argOperands, h]

/-- Argument `k` of WRITE_ARGS is operand `k + 1`: operand 0 is the command. -/
theorem getElem?_argOperands (l : Latches) {n : Nat} (k : Fin 8) (h : k.val < n) :
    (argOperands l n)[k.val]? = some (operand l k.succ) := by
  simp [argOperands, operand, Vector.get_eq_getElem, h]

theorem decode_writeArgs {cnt : BitVec 4} (h : cnt.toNat ≤ 8) :
    decode (BitVec.ofNat 16 (cnt.toNat * 256 + 0x14)) = .ok (.writeArgs cnt) := by
  rw [← encode_writeArgs h, BitVec.ofNat_toNat, BitVec.setWidth_eq]
  exact (decodeOfEncodeIsTheInstruction (.writeArgs cnt) (decide_eq_true h)).1

/-! ## Writes -/

/-- Settles O36: the gate and the run of a well-formed count, whose argument list is operands 1 to `cnt`; a larger
count is no well-formed instruction. -/
theorem writeArgsSendsArgumentsInOrder : Obligations.WriteArgsSendsArgumentsInOrder := by
  refine ⟨fun cnt => decode_writeArgs, fun cnt s h => ?gate, fun cnt s h hs => ?tooMany,
    fun cnt s h hq hu hf => ?run⟩
  case gate => exact exec_gate_traffic (i := .writeArgs cnt) rfl (decide_eq_true h)
  case tooMany =>
    exact exec_illFormed (i := .writeArgs cnt) (decide_eq_false (Nat.not_le.2 h)) (State.busy_of_idle hs)
  case run =>
    obtain ⟨evs, env, hevs, hexec⟩ :=
      exec_writes (i := .writeArgs cnt) rfl (decide_eq_true h) hq hu hf rfl (rxCount_argsFrames _ _)
    rw [primEvents_argsFrames] at hevs
    exact ⟨evs, env, argOperands s.latchNow cnt.toNat, length_argOperands _ h, getElem?_argOperands _, hevs, hexec⟩

/-- Settles O33: each operation is its one frame. -/
theorem singleWordWritesSendOneFrame : Obligations.SingleWordWritesSendOneFrame := by
  refine ⟨by decide, by decide, fun s hs hlc => ⟨exec_gate_traffic rfl rfl hs hlc, exec_gate_traffic rfl rfl hs hlc⟩,
    fun s hq hu hf => ⟨?command, ?word⟩⟩
  case command => exact exec_writes rfl rfl hq hu hf rfl (rxCount_commandFrame _)
  case word => exact exec_writes rfl rfl hq hu hf rfl (rxCount_writeFrame _)

/-- Settles O34: the operation is the frames of one register write. -/
theorem writeRegisterSendsThreeFrames : Obligations.WriteRegisterSendsThreeFrames :=
  ⟨by decide, fun _ => exec_gate_traffic rfl rfl, fun _ hq hu hf =>
    exec_writes rfl rfl hq hu hf rfl (rxCount_writeRegisterFrames _ _)⟩

/-- Settles O35: the operation is two register writes, of the two halves of the operand pair. -/
theorem setTargetAddrSendsHighHalfFirst : Obligations.SetTargetAddrSendsHighHalfFirst := by
  refine ⟨by decide, fun s => exec_gate_traffic rfl rfl, fun s hq hu hf => ?_⟩
  obtain ⟨evs, env, hevs, hexec⟩ := exec_writes (i := .setTargetAddr) rfl rfl hq hu hf rfl (rxCount_targetAddrFrames _)
  rw [primEvents_targetAddrFrames, operand32, highHalf_word32, lowHalf_word32] at hevs
  exact ⟨evs, env, hevs, hexec⟩

/-! ## Reads -/

theorem primEvents_bulkReadFrame_coming (n : Nat) (e : Env) :
    primEvents (bulkReadFrame false n) (Env.coming n e) = traceRDS (Env.coming n e) := by
  simpa using primEvents_bulkReadFrame (Env.coming n e)

/-- A copy-out of the coming words from entry 0 on replaces the first entries and keeps the others (R187). -/
theorem getElem_copyWords_coming {m : Nat} (n : Nat) (e : Env) (buf : Vector Word m) (i : Fin m) :
    (copyWords 0 (Env.coming n e) buf)[i] = if i.val < n then (Env.coming n e).getD i.val 0 else buf[i] := by
  simpa using getElem_copyWords 0 (Env.coming n e) buf i.val i.isLt

/-- Settles O38: the words of the bulk-read frame are the coming ones, and the copy-out replaces as many entries from
RDBUF[0] on. -/
theorem readWordsFillsTheReadBuffer : Obligations.ReadWordsFillsTheReadBuffer := by
  refine ⟨by decide, fun s => exec_gate_traffic rfl rfl, fun s hs hu hf hn => ?tooMany, fun s hq hu hf hn => ?fits⟩
  case tooMany => exact exec_reject hs (gateAllows_traffic rfl hu hf) rfl (if_pos hn)
  case fits =>
    obtain ⟨evs, env, hevs, hexec⟩ :=
      exec_reads (i := .readWords) hq (gateAllows_traffic rfl hu hf) rfl (if_neg (Nat.not_lt.2 hn))
    rw [Config.P_WAIT_EACH_STREAM_WORD, rxCount_bulkReadFrame] at hevs hexec
    rw [primEvents_bulkReadFrame_coming] at hevs
    rw [performAll_copyOutFrom] at hexec
    exact ⟨evs, env, _, hevs, getElem_copyWords_coming _ s.env s.rdbuf, hexec⟩

/-- Settles O37: the operation is one read frame. -/
theorem readWordStoresTheWordRead : Obligations.ReadWordStoresTheWordRead :=
  ⟨by decide, fun _ => exec_gate_traffic rfl rfl, fun _ hq hu hf =>
    exec_readsRdata rfl rfl hq hu hf rfl (rxCount_bulkReadFrame 1)⟩

/-- Settles O39: the operation is the frames of one register read. -/
theorem readRegisterStoresTheWordRead : Obligations.ReadRegisterStoresTheWordRead :=
  ⟨by decide, fun _ => exec_gate_traffic rfl rfl, fun _ hq hu hf =>
    exec_readsRdata rfl rfl hq hu hf rfl (rxCount_readRegisterFrames _)⟩

end Sys2Proof.Machine
end

section
/-! An accepted operation as its events and then its state updates, and the lifecycle gate of the bring-up
(41_handshake.md R150, 43_init.md R210). -/

namespace Sys2Proof.Machine

/-! ## Events first, then updates -/

/-- The micro-steps that are state updates, in order. -/
def stateUpdates (ms : List Micro) : List Micro := ms.filter fun m => m.event.isNone

theorem stateUpdates_append (ms ns : List Micro) : stateUpdates (ms ++ ns) = stateUpdates ms ++ stateUpdates ns :=
  List.filter_append ..

theorem stateUpdates_eq_nil {ms : List Micro} (h : ∀ m ∈ ms, m.event.isSome = true) : stateUpdates ms = [] :=
  List.filter_eq_nil_iff.2 fun m hm => by simp [← Option.not_isSome, h m hm]

theorem stateUpdates_eq_self {ms : List Micro} (h : ∀ m ∈ ms, m.event = none) : stateUpdates ms = ms :=
  List.filter_eq_self.2 fun m hm => by simp [h m hm]

theorem eventsOf_eq_nil {ms : List Micro} (h : ∀ m ∈ ms, m.event = none) : eventsOf ms = [] :=
  List.filterMap_eq_nil_iff.2 h

theorem State.setFlag_afterEvents (s : State) (evs : List Event) (c : Cause) :
    (s.afterEvents evs).setFlag c = (s.setFlag c).afterEvents evs := by
  simp only [State.setFlag, State.afterEvents]
  split
  · rw [BitVec.or_assoc, BitVec.or_assoc, BitVec.or_comm (stickyMask c)]
  · rfl

/-- A state update and wire events do not see each other. -/
theorem State.perform_afterEvents {m : Micro} (hm : m.event = none) (s : State) (evs : List Event) :
    (s.afterEvents evs).perform m = (s.perform m).afterEvents evs := by
  cases m
  case sel | tx | rx | waitReady | rst | delay | pollTimeout => cases hm
  case setSticky c => exact s.setFlag_afterEvents evs c
  all_goals rfl

/-- Micro-steps leave what their events and then their state updates leave. -/
theorem State.performAll_eq_updates_afterEvents (s : State) (ms : List Micro) :
    s.performAll ms = (s.afterEvents (eventsOf ms)).performAll (stateUpdates ms) := by
  induction ms generalizing s with
  | nil => rfl
  | cons m ms ih =>
    rw [State.performAll_cons, ih, eventsOf_cons]
    cases hm : m.event with
    | some e =>
      rw [State.perform_event hm, State.afterEvents_append]
      simp [stateUpdates, hm]
    | none =>
      rw [← State.perform_afterEvents hm, ← State.performAll_cons]
      simp [stateUpdates, hm]

/-- An accepted instruction on a quiet block leaves what its script's events and then its state updates leave. -/
theorem exec_updates {i : Instr} {s : State} {script : Script} (hq : s.quiet) (hg : gateAllows i s.lc = true)
    (hw : i.wellFormed = true) (hb : bodyOf i s s.latchNow = .ok script) :
    exec i s = .next (((s.afterEvents (eventsOf (script s.env).1)).performAll
      (stateUpdates (script s.env).1)).latched (script s.env).2) := by
  rw [exec_quiet hq hg hw hb, ← State.performAll_eq_updates_afterEvents, State.withSeq_self]
  simpa using hq.1

/-! ## The gate of an operation with one required lifecycle state -/

theorem gateAllows_single {i : Instr} {l lc : Lifecycle} (hi : gateSet i = [l]) : gateAllows i lc = true ↔ lc = l := by
  rw [gateAllows_iff, hi, List.mem_singleton]

theorem exec_gate_single {i : Instr} {l : Lifecycle} (hi : gateSet i = [l]) (hw : i.wellFormed = true) {s : State}
    (hs : s.seq = .idle) (hlc : s.lc ≠ l) : exec i s = .next (s.setFlag .errState) :=
  exec_gate hs (by rwa [← Bool.not_eq_true, gateAllows_single hi]) hw

end Sys2Proof.Machine
end

section
/-! The obligations about RESET_PANEL, SYSTEM_RUN and CONFIGURE (43_init.md R211 to R213). -/

namespace Sys2Proof.Machine

/-- An accepted operation whose frames receive nothing and end in a new lifecycle state. -/
theorem exec_setsLc {i : Instr} {s : State} {ps : List Prim} {l l' : Lifecycle} (hi : gateSet i = [l])
    (hw : i.wellFormed = true) (hq : s.quiet) (hlc : s.lc = l)
    (hb : bodyOf i s s.latchNow = .ok (andThen (wire ps) (updates [.setLc l']))) (hrx : rxCount ps = 0) :
    ∃ evs env, evs.map Event.untimed = primEvents ps [] ∧
      exec i s = .next (({ s.afterEvents evs with lc := l' } : State).latched env) := by
  obtain ⟨evs, env, hevs, hexec⟩ := exec_thenUpdates hq ((gateAllows_single hi).2 hlc) hw hb
  rw [hrx] at hevs
  exact ⟨evs, env, hevs, hexec⟩

/-- Settles O40: no primitive of the script leaves anything to the environment, so its events are fixed. -/
theorem resetPanelPulsesReset : Obligations.ResetPanelPulsesReset := by
  refine ⟨by decide, fun s => exec_gate_single rfl rfl, fun s hq hlc => ?_⟩
  rw [exec_updates hq ((gateAllows_single rfl).2 hlc) rfl rfl]
  rfl

/-- Settles O41: the operation is one command frame, then LC. -/
theorem systemRunSendsSystemRun : Obligations.SystemRunSendsSystemRun :=
  ⟨by decide, fun _ => exec_gate_single rfl rfl, fun _ hq hlc =>
    exec_setsLc rfl rfl hq hlc rfl (rxCount_commandFrame _)⟩

/-- The frames of CONFIGURE (R213). -/
def configureFrames : List Prim :=
  writeRegisterFrames Config.A_I80CPCR Config.V_PACK_WRITE_EN
    ++ argsFrames Config.K_VCOM [Config.K_VCOM_MODE_SET, Config.V_VCOM_MV]

theorem configureScript_eq : configureScript = andThen (wire configureFrames) (updates [.setLc .configured]) := rfl

theorem rxCount_configureFrames : rxCount configureFrames = 0 := by simp [configureFrames]

theorem primEvents_configureFrames : primEvents configureFrames []
    = traceREG 0x0004 0x0001 ++ traceCMD 0x0039 ++ traceWR 0x0001 ++ traceWR 2300 := rfl

/-- Settles O42: the operation is a register write and a command with two arguments, then LC. -/
theorem configureSendsPackEnableAndVcom : Obligations.ConfigureSendsPackEnableAndVcom := by
  refine ⟨by decide, fun s => exec_gate_single rfl rfl, fun s hq hlc => ?_⟩
  rw [← primEvents_configureFrames]
  exact exec_setsLc rfl rfl hq hlc (congrArg Except.ok configureScript_eq) rxCount_configureFrames

end Sys2Proof.Machine
end

section
/-! The obligations about GET_DEVICE_INFO and SETUP (43_init.md R214, R216). -/

namespace Sys2Proof.Machine

/-! ## The record's checks, in the arithmetic of R214 -/

section
variable {w h : Word}

theorem noData_iff : (w = 0 ∨ h = 0 ∨ w.toNat % 4 ≠ 0) ↔ (w.toNat = 0 ∨ h.toNat = 0 ∨ w.toNat % 4 ≠ 0) := by
  have hzero : ∀ v : Word, v = 0 ↔ v.toNat = 0 := fun v => BitVec.toNat_inj.symm
  rw [hzero, hzero]

theorem infoFailure_noData (hbad : w.toNat = 0 ∨ h.toNat = 0 ∨ w.toNat % 4 ≠ 0) :
    infoFailure w h = some .errDevinfo := if_pos (noData_iff.2 hbad)

theorem infoFailure_tooLarge (hok : ¬ (w.toNat = 0 ∨ h.toNat = 0 ∨ w.toNat % 4 ≠ 0))
    (hbig : 259200 < w.toNat / 2 * h.toNat) : infoFailure w h = some .errAlloc :=
  (if_neg (mt noData_iff.1 hok)).trans (if_pos hbig)

theorem infoFailure_usable (hok : ¬ (w.toNat = 0 ∨ h.toNat = 0 ∨ w.toNat % 4 ≠ 0))
    (hfit : w.toNat / 2 * h.toNat ≤ 259200) : infoFailure w h = none :=
  (if_neg (mt noData_iff.1 hok)).trans (if_neg (Nat.not_lt.2 hfit))

end

/-! ## What the updates leave, one lemma per outcome -/

section
variable {r : Vector Word 20} (s : State)

theorem performAll_deviceInfoUpdates_failure {c : Cause} (h : infoFailure r[0] r[1] = some c) :
    s.performAll (deviceInfoUpdates r.toList) = { ({ s with rdbuf := r } : State).setFlag c with lc := .failed } := by
  rw [performAll_deviceInfoUpdates, h]

theorem performAll_deviceInfoUpdates_success (h : infoFailure r[0] r[1] = none) :
    s.performAll (deviceInfoUpdates r.toList)
      = { s with
          rdbuf := r, panelW := r[0], panelH := r[1], imgbufL := r[2], imgbufH := r[3]
          fwver := Vector.ofFn fun i : Fin 8 => r[4 + i.val]
          lutver := Vector.ofFn fun i : Fin 8 => r[12 + i.val]
          geomKnown := true, fb := s.fb.zeroFill (fbLen r[0] r[1]), lc := .ready } := by
  rw [performAll_deviceInfoUpdates, h]

/-- A record leads to READY or to FAILED, whatever LC was before. -/
theorem lc_performAll_deviceInfoUpdates (r : Vector Word 20) :
    (s.performAll (deviceInfoUpdates r.toList)).lc = .ready ∨
      (s.performAll (deviceInfoUpdates r.toList)).lc = .failed := by
  cases h : infoFailure r[0] r[1] with
  | some c => exact .inr (by rw [performAll_deviceInfoUpdates_failure s h])
  | none => exact .inl (by rw [performAll_deviceInfoUpdates_success s h])

/-- The lifecycle states SETUP goes through leave nothing behind. -/
theorem performAll_setLc_deviceInfoUpdates (l : Lifecycle) (r : Vector Word 20) :
    (s.perform (.setLc l)).performAll (deviceInfoUpdates r.toList) = s.performAll (deviceInfoUpdates r.toList) := by
  cases h : infoFailure r[0] r[1] with
  | some c => rw [performAll_deviceInfoUpdates_failure _ h, performAll_deviceInfoUpdates_failure _ h]; rfl
  | none => rw [performAll_deviceInfoUpdates_success _ h, performAll_deviceInfoUpdates_success _ h]; rfl

end

/-! ## Scripts with fixed events and updates -/

/-- Whatever the environment chooses, the script sends the events `t`, waits taken as ready, makes the updates `us`, and
receives no word. -/
structure Acts (sc : Script) (t : List Event) (us : List Micro) : Prop where
  events : ∀ e, (eventsOf (sc e).1).map Event.untimed = t
  updates : ∀ e, stateUpdates (sc e).1 = us
  coming : ∀ n e, Env.coming n (sc e).2 = Env.coming n e

theorem Acts.andThen {p q : Script} {t u : List Event} {us vs : List Micro} (hp : Acts p t us) (hq : Acts q u vs) :
    Acts (andThen p q) (t ++ u) (us ++ vs) where
  events e := by simp only [Machine.andThen, eventsOf_append, List.map_append, hp.events, hq.events]
  updates e := by simp only [Machine.andThen, stateUpdates_append, hp.updates, hq.updates]
  coming n e := (hq.coming n _).trans (hp.coming n e)

/-- Frames that receive nothing, then a lifecycle state. -/
theorem acts_setLc {ps : List Prim} (h : rxCount ps = 0) (l : Lifecycle) :
    Acts (Machine.andThen (wire ps) (updates [.setLc l])) (primEvents ps []) [.setLc l] where
  events e := by
    have hset : eventsOf [Micro.setLc l] = [] := rfl
    rw [← wire_received_nil h e, ← wire_events]
    simp only [Machine.andThen, Machine.updates, eventsOf_append, hset, List.append_nil]
  updates e := by
    have hset : stateUpdates [Micro.setLc l] = [.setLc l] := rfl
    simp only [Machine.andThen, Machine.updates, stateUpdates_append, stateUpdates_eq_nil (wire_isWire ps e), hset,
      List.nil_append]
  coming n e := by
    have hwire := coming_wire ps n e
    rwa [h, Nat.zero_add, List.drop_zero] at hwire

/-- The events of SETUP's first three bodies (R211 to R213). -/
def bringUpTrace : List Event :=
  [.rst .low, .delay 20, .rst .high, .delay 100] ++ traceCMD 0x0001
    ++ (traceREG 0x0004 0x0001 ++ traceCMD 0x0039 ++ traceWR 0x0001 ++ traceWR 2300)

theorem acts_bringUp : Acts (andThen (andThen resetPanelScript systemRunScript) configureScript) bringUpTrace
    [.setLc .reset, .setLc .running, .setLc .configured] :=
  ((acts_setLc rfl .reset).andThen (acts_setLc (rxCount_commandFrame _) .running)).andThen
    (acts_setLc rxCount_configureFrames .configured)

theorem andThen_assoc (p q r : Script) : andThen (andThen p q) r = andThen p (andThen q r) := by
  funext e
  simp [andThen, List.append_assoc]

/-! ## The body of GET_DEVICE_INFO -/

/-- The device-info record the controller is about to send. -/
def comingRecord (e : Env) : Vector Word 20 := ⟨⟨Env.coming 20 e⟩, by simp⟩

theorem toList_comingRecord (e : Env) : (comingRecord e).toList = Env.coming 20 e := rfl

theorem deviceInfoUpdates_event {r : List Word} {m : Micro} (h : m ∈ deviceInfoUpdates r) : m.event = none := by
  unfold deviceInfoUpdates at h
  rcases List.mem_append.1 h with h | h
  · obtain ⟨i, w, rfl⟩ := mem_copyOutFrom h
    rfl
  · split at h
    · simp only [List.mem_cons, List.not_mem_nil, or_false] at h
      rcases h with rfl | rfl <;> rfl
    · simp only [List.mem_append, List.mem_singleton] at h
      rcases h with ((h | rfl) | h) | rfl
      · exact Micro.event_of_setsInfo (mem_infoUpdates h)
      · rfl
      · obtain ⟨a, _, rfl⟩ := mem_zeroFillUpdates h
        rfl
      · rfl

/-- The frames of GET_DEVICE_INFO (R214). -/
def deviceInfoFrames : List Prim := commandFrame Config.K_GET_DEV_INFO ++ bulkReadFrame false 20

theorem rxCount_deviceInfoFrames : rxCount deviceInfoFrames = 20 := by simp [deviceInfoFrames]

theorem primEvents_deviceInfoFrames (e : Env) :
    primEvents deviceInfoFrames (Env.coming 20 e) = traceCMD 0x0302 ++ traceRDS (Env.coming 20 e) := by
  have h := primEvents_append (commandFrame Config.K_GET_DEV_INFO) (bulkReadFrame false 20) [] (Env.coming 20 e)
    (by simp)
  rw [List.nil_append, primEvents_commandFrame, primEvents_bulkReadFrame_coming] at h
  exact h

/-- GET_DEVICE_INFO's micro-steps: its frames, the record's updates, and what follows them. -/
theorem getDeviceInfoScript_micros (k : List Word → Script) (e : Env) :
    (getDeviceInfoScript k e).1 = (wire deviceInfoFrames e).1 ++ (deviceInfoUpdates (comingRecord e).toList
      ++ (k (comingRecord e).toList (wire deviceInfoFrames e).2).1) := by
  rw [toList_comingRecord, ← rxCount_deviceInfoFrames, ← wire_received]
  rfl

/-- GET_DEVICE_INFO's body and the wire events that follow it: it reads the record, and its updates are the record's. -/
theorem getDeviceInfoScript_acts {k : List Word → Script} {P : List Event → Prop} (e : Env)
    (hk : Sends (k (comingRecord e).toList) P) :
    ∃ tail, P tail ∧
      (eventsOf (getDeviceInfoScript k e).1).map Event.untimed
        = traceCMD 0x0302 ++ traceRDS (comingRecord e).toList ++ tail ∧
      stateUpdates (getDeviceInfoScript k e).1 = deviceInfoUpdates (comingRecord e).toList := by
  have hframes : (eventsOf (wire deviceInfoFrames e).1).map Event.untimed
      = traceCMD 0x0302 ++ traceRDS (comingRecord e).toList := by
    rw [wire_events, wire_received, rxCount_deviceInfoFrames, primEvents_deviceInfoFrames, toList_comingRecord]
  have hinfo : ∀ m ∈ deviceInfoUpdates (comingRecord e).toList, m.event = none := fun m => deviceInfoUpdates_event
  obtain ⟨hwire, hP⟩ := hk (wire deviceInfoFrames e).2
  refine ⟨_, hP, ?_, ?_⟩
  · rw [getDeviceInfoScript_micros, eventsOf_append, eventsOf_append, eventsOf_eq_nil hinfo, List.nil_append,
      List.map_append, hframes]
  · rw [getDeviceInfoScript_micros, stateUpdates_append, stateUpdates_append, stateUpdates_eq_nil (wire_isWire _ e),
      stateUpdates_eq_self hinfo, stateUpdates_eq_nil hwire, List.nil_append, List.append_nil]

/-- GET_DEVICE_INFO accepted: the frames, then the record's updates. -/
theorem exec_getDeviceInfo {s : State} (hq : s.quiet) (hlc : s.lc = .configured) :
    ∃ evs env, evs.map Event.untimed = traceCMD 0x0302 ++ traceRDS (comingRecord s.env).toList ∧
      exec .getDeviceInfo s
        = .next (((s.afterEvents evs).performAll (deviceInfoUpdates (comingRecord s.env).toList)).latched env) := by
  obtain ⟨tail, rfl, hevs, hupd⟩ :=
    getDeviceInfoScript_acts (k := fun _ => updates []) s.env sends_updates_nil
  have hexec := exec_updates (i := .getDeviceInfo) hq ((gateAllows_single rfl).2 hlc) rfl rfl
  rw [hupd] at hexec
  rw [List.append_nil] at hevs
  exact ⟨_, _, hevs, hexec⟩

/-- Settles O43: the updates after the frames, per outcome of the record's checks. -/
theorem getDeviceInfoAcceptsOrFails : Obligations.GetDeviceInfoAcceptsOrFails := by
  refine ⟨by decide, fun s => exec_gate_single rfl rfl, fun s hq hlc => ?_⟩
  obtain ⟨evs, env, hevs, hexec⟩ := exec_getDeviceInfo hq hlc
  refine ⟨evs, env, comingRecord s.env, rfl, hevs, fun hbad => ?_, fun hok hbig => ?_, fun hok hfit => ?_⟩
  · rw [hexec, performAll_deviceInfoUpdates_failure _ (infoFailure_noData hbad)]
  · rw [hexec, performAll_deviceInfoUpdates_failure _ (infoFailure_tooLarge hok hbig)]
  · rw [hexec, performAll_deviceInfoUpdates_success _ (infoFailure_usable hok hfit)]
    rfl

/-! ## SETUP -/

theorem encodeWord_zero (reversed : Bool) : encodeWord 0 0 reversed = if reversed then 0x0000 else 0xFFFF := by
  cases reversed <;> rfl

/-- The whole panel needs no clipping. -/
theorem clipExtent_zero_self (l : Word) : clipExtent 0 l l = l := by
  apply BitVec.eq_of_toNat_eq
  simp [toNat_clipExtent]

/-- The trace of SETUP's `clear(init = 1)` for a usable record (R216, 45_writer.md R273). -/
def isInitClearTrace (reversed : Bool) (r : Vector Word 20) (t : List Event) : Prop :=
  ∃ a u, t = a ++ u ∧
    isAreaLoadTrace r[3] r[2] 0 0 r[0] r[1]
      (List.replicate (r[0].toNat / 4 * r[1].toNat) (if reversed then 0x0000 else 0xFFFF)) a ∧
    isUpdateTrace r[3] r[2] 0 0 r[0] r[1] 0 u

/-- SETUP's tail: nothing after a failure, and the init clear otherwise (R216). -/
theorem setupClear_sends (reversed : Bool) (r : Vector Word 20) :
    Sends (setupClear reversed r.toList) fun t =>
      (∀ c, infoFailure r[0] r[1] = some c → t = []) ∧
      (infoFailure r[0] r[1] = none → isInitClearTrace reversed r t) := by
  unfold setupClear
  simp only [infoWord_toList r _ (by omega : 0 < 20), infoWord_toList r _ (by omega : 1 < 20),
    infoWord_toList r _ (by omega : 2 < 20), infoWord_toList r _ (by omega : 3 < 20)]
  cases infoFailure r[0] r[1] with
  | some c => exact sends_updates_nil.mono fun t ht => ⟨fun _ _ => ht, nofun⟩
  | none =>
    refine (clearPanel_sends _ _ _ _ _).mono ?_
    rintro t ⟨a, u, ha, hu, rfl⟩
    rw [highHalf_word32, lowHalf_word32, encodeWord_zero] at ha
    rw [if_pos rfl, highHalf_word32, lowHalf_word32, clipExtent_zero_self, clipExtent_zero_self] at hu
    exact ⟨nofun, fun _ => ⟨a, u, rfl, ha, hu⟩⟩

/-- SETUP's script (R216). -/
def setupScript (reversed : Bool) : Script :=
  andThen (andThen (andThen resetPanelScript systemRunScript) configureScript)
    (getDeviceInfoScript (setupClear reversed))

theorem bodyOf_setup (s : State) (l : Latches) : bodyOf .setup s l = .ok (setupScript l.reversed) := by
  rw [setupScript, andThen_assoc, andThen_assoc]
  rfl

/-- SETUP's script: the events of the four bodies and the clear; its updates are GET_DEVICE_INFO's after LC's way
there. -/
theorem setupScript_acts (reversed : Bool) (e : Env) :
    ∃ tail, (∀ c, infoFailure (comingRecord e)[0] (comingRecord e)[1] = some c → tail = []) ∧
      (infoFailure (comingRecord e)[0] (comingRecord e)[1] = none →
        isInitClearTrace reversed (comingRecord e) tail) ∧
      (eventsOf (setupScript reversed e).1).map Event.untimed
        = bringUpTrace ++ (traceCMD 0x0302 ++ traceRDS (comingRecord e).toList ++ tail) ∧
      stateUpdates (setupScript reversed e).1
        = [.setLc .reset, .setLc .running, .setLc .configured] ++ deviceInfoUpdates (comingRecord e).toList := by
  let bringUp := andThen (andThen resetPanelScript systemRunScript) configureScript
  have hrecord : comingRecord (bringUp e).2 = comingRecord e := by
    simp only [comingRecord, bringUp, acts_bringUp.coming]
  obtain ⟨tail, ⟨hfail, hclear⟩, hevs, hupd⟩ :=
    getDeviceInfoScript_acts (bringUp e).2 (setupClear_sends reversed (comingRecord (bringUp e).2))
  have hscript : (setupScript reversed e).1
      = (bringUp e).1 ++ (getDeviceInfoScript (setupClear reversed) (bringUp e).2).1 := rfl
  rw [hrecord] at hfail hclear hevs hupd
  refine ⟨tail, hfail, hclear, ?_, ?_⟩
  · rw [hscript, eventsOf_append, List.map_append, acts_bringUp.events, hevs]
  · rw [hscript, stateUpdates_append, acts_bringUp.updates, hupd]

/-- SETUP's updates leave what GET_DEVICE_INFO's leave. -/
theorem State.performAll_setupScript (s : State) (reversed : Bool) (e : Env) :
    s.performAll (setupScript reversed e).1
      = (s.afterEvents (eventsOf (setupScript reversed e).1)).performAll
          (deviceInfoUpdates (comingRecord e).toList) := by
  obtain ⟨_, _, _, _, hupd⟩ := setupScript_acts reversed e
  rw [State.performAll_eq_updates_afterEvents, hupd]
  simp only [List.cons_append, List.nil_append, State.performAll_cons, performAll_setLc_deviceInfoUpdates]

/-- SETUP accepted: the frames of the four bodies, the record's updates, and the clear's frames after a usable record. -/
theorem exec_setup {s : State} (hq : s.quiet) (hlc : s.lc = .unreset) :
    ∃ evs env tail,
      evs.map Event.untimed
        = bringUpTrace ++ (traceCMD 0x0302 ++ traceRDS (comingRecord s.env).toList ++ tail) ∧
      (∀ c, infoFailure (comingRecord s.env)[0] (comingRecord s.env)[1] = some c → tail = []) ∧
      (infoFailure (comingRecord s.env)[0] (comingRecord s.env)[1] = none →
        isInitClearTrace s.reversed (comingRecord s.env) tail) ∧
      exec .setup s
        = .next (((s.afterEvents evs).performAll (deviceInfoUpdates (comingRecord s.env).toList)).latched env) := by
  obtain ⟨tail, hfail, hclear, hevs, _⟩ := setupScript_acts s.reversed s.env
  refine ⟨_, (setupScript s.reversed s.env).2, tail, hevs, hfail, hclear, ?_⟩
  rw [exec_quiet hq ((gateAllows_single rfl).2 hlc) rfl (bodyOf_setup s s.latchNow), State.performAll_setupScript,
    State.withSeq_self _ _ (by simpa using hq.1)]
  rfl

/-- Settles O44: the updates are GET_DEVICE_INFO's, per outcome of the record's checks, and the clear follows a usable
record only. -/
theorem setupBringsUpAndClears : Obligations.SetupBringsUpAndClears := by
  refine ⟨by decide, fun s => exec_gate_single rfl rfl, fun s hq hlc => ?_⟩
  obtain ⟨evs, env, tail, hevs, hfail, hclear, hexec⟩ := exec_setup hq hlc
  refine ⟨evs, env, comingRecord s.env, tail, rfl, ?_, fun hbad => ?_, fun hok hbig => ?_, fun hok hfit => ?_⟩
  · simp only [hevs, bringUpTrace, List.append_assoc]
  · have h := infoFailure_noData hbad
    exact ⟨hfail _ h, by rw [hexec, performAll_deviceInfoUpdates_failure _ h]⟩
  · have h := infoFailure_tooLarge hok hbig
    exact ⟨hfail _ h, by rw [hexec, performAll_deviceInfoUpdates_failure _ h]⟩
  · have h := infoFailure_usable hok hfit
    refine ⟨hclear h, ?_⟩
    rw [hexec, performAll_deviceInfoUpdates_success _ h]
    rfl

end Sys2Proof.Machine
end

section
/-! The obligations about the lifecycle: which operations move LC, and that FAILED is terminal (43_init.md R210, R215). -/

namespace Sys2Proof.Machine

/-! ## LC after micro-steps -/

theorem State.lc_performAll (s : State) (ms : List Micro) :
    (s.performAll ms).lc = s.lc ∨ Micro.setLc (s.performAll ms).lc ∈ ms := by
  induction ms generalizing s with
  | nil => exact .inl rfl
  | cons m ms ih =>
    rw [State.performAll_cons]
    rcases ih (s.perform m) with hkept | hset
    · rw [hkept]
      by_cases hm : ∃ l, m = .setLc l
      · obtain ⟨l, rfl⟩ := hm
        exact .inr (List.mem_cons_self ..)
      · exact .inl (State.lc_perform (fun l hl => hm ⟨l, hl⟩) s)
    · exact .inr (List.mem_cons_of_mem _ hset)

/-- LC after any number of engine steps, those past the end of the operation included. -/
theorem State.lc_microSteps_seqAt (n : Nat) (s : State) (op : Instr) (pos : Nat) (ms : List Micro) :
    (State.microSteps n (s.withSeq (seqAt op pos ms))).lc = (s.performAll (ms.take n)).lc := by
  induction n generalizing s pos ms with
  | zero => rfl
  | succ n ih =>
    cases ms with
    | nil => rw [State.microSteps_idle _ _ rfl]; rfl
    | cons m ms => rw [State.microSteps, State.microStep_seqAt, ih]; rfl

/-- However far an operation has got, LC is as it was before or one its script sets. -/
theorem State.lc_microSteps_launch (n : Nat) (s : State) (op : Instr) (script : Script) :
    (State.microSteps n (s.launch op script)).lc = s.lc ∨
    Micro.setLc (State.microSteps n (s.launch op script)).lc ∈ (script s.env).1 := by
  let ms := (script s.env).1
  let k := s.turnLength ms
  have hlaunch : s.launch op script = (((s.performAll (ms.take k)).latched (script s.env).2).withInbox
      (dueInbox s.inbox)).withSeq (seqAt op k (ms.drop k)) := s.launch_eq op script
  have hlc : (State.microSteps n (s.launch op script)).lc
      = (s.performAll (ms.take k ++ (ms.drop k).take n)).lc := by
    rw [hlaunch, State.lc_microSteps_seqAt, State.performAll_withInbox, State.performAll_latched,
      State.performAll_append]
    rfl
  rw [hlc]
  refine (s.lc_performAll _).imp_right fun h => ?_
  rcases List.mem_append.1 h with h | h
  · exact List.mem_of_mem_take h
  · exact List.mem_of_mem_drop (List.mem_of_mem_take h)

/-! ## The table of R210 -/

/-- A row of the table: an operation, its required LC, and an LC it may set from there. SETUP sets those on its way. -/
def lifecycleRow (i : Instr) (required l : Lifecycle) : Prop :=
  (i = .resetPanel ∧ required = .unreset ∧ l = .reset) ∨
  (i = .systemRun ∧ required = .reset ∧ l = .running) ∨
  (i = .configure ∧ required = .running ∧ l = .configured) ∨
  (i = .getDeviceInfo ∧ required = .configured ∧ (l = .ready ∨ l = .failed)) ∨
  (i = .setup ∧ required = .unreset)

/-- An accepted operation sets LC along its row only. -/
theorem lifecycleRow_of_mayContain {i : Instr} {lc l : Lifecycle} (hg : gateAllows i lc = true)
    (h : mayContain i (.setLc l)) : lifecycleRow i lc l := by
  have hi : i ∈ [.resetPanel, .systemRun, .configure, .getDeviceInfo, .setup] := mem_issuers (m := .setLc l) rfl h
  have hwire : ¬ (Micro.setLc l).isWire := by simp [Micro.isWire, Micro.event]
  simp only [List.mem_cons, List.not_mem_nil, or_false] at hi
  rcases hi with rfl | rfl | rfl | rfl | rfl <;> rw [gateAllows_single rfl] at hg <;> subst hg
  case inr.inr.inr.inl =>
    have hl : l = .failed ∨ l = .ready := by simpa [mayContain, hwire, Micro.setsInfo] using h
    exact .inr (.inr (.inr (.inl ⟨rfl, rfl, hl.symm⟩)))
  case inr.inr.inr.inr => exact .inr (.inr (.inr (.inr ⟨rfl, rfl⟩)))
  all_goals
    have hl := h.resolve_left hwire
    cases hl
    simp [lifecycleRow]

/-- However far an operation has got, LC is as it was before or in the operation's row. -/
theorem exec_lc {i : Instr} {s t : State} (hs : s.seq = .idle) (h : exec i s = .next t) (n : Nat) :
    (State.microSteps n t).lc = s.lc ∨ lifecycleRow i s.lc (State.microSteps n t).lc := by
  rcases exec_next h with ⟨c, rfl, _⟩ | ⟨_, hg, _, script, hb, rfl⟩
  case inl =>
    left
    rw [State.microSteps_idle (s.setFlag c) n hs, State.lc_setFlag]
  case inr =>
    exact (s.lc_microSteps_launch n i script).imp_right fun hset =>
      lifecycleRow_of_mayContain hg (script_mayContain hb _ _ hset)

/-! ## Where SETUP ends -/

/-- Run to its end, SETUP has reached READY or FAILED (R216). -/
theorem exec_setup_lc {s t : State} (h : exec .setup s = .next t) (hlc : t.lc ≠ s.lc) (ht : t.seq = .idle) :
    t.lc = .ready ∨ t.lc = .failed := by
  rcases exec_next h with ⟨c, rfl, _⟩ | ⟨_, _, _, script, hb, rfl⟩
  case inl => exact absurd rfl hlc
  case inr =>
    rw [bodyOf_setup] at hb
    cases hb
    have hend := s.microSteps_launch .setup (setupScript s.latchNow.reversed)
    rw [State.microSteps_idle _ _ ht, State.performAll_setupScript] at hend
    rw [hend, State.lc_withInbox, State.lc_withSeq, State.lc_latched]
    exact lc_performAll_deviceInfoUpdates _ _

/-- Settles O51: a next state with another LC is a launch, which moved LC along the operation's row. -/
theorem onlyBringUpMovesTheLifecycle : Obligations.OnlyBringUpMovesTheLifecycle := by
  intro i s t h hlc
  have hs : s.seq = .idle := by
    rcases exec_next h with ⟨c, rfl, _⟩ | ⟨hs, _⟩
    · exact absurd rfl hlc
    · exact hs
  have hrow : lifecycleRow i s.lc t.lc := (exec_lc hs h 0).resolve_left hlc
  refine hrow.imp_right (Or.imp_right (Or.imp_right (Or.imp_right ?_)))
  rintro ⟨rfl, hunreset⟩
  exact ⟨rfl, hunreset, exec_setup_lc h hlc⟩

/-! ## FAILED -/

theorem not_lifecycleRow_failed (i : Instr) (l : Lifecycle) : ¬ lifecycleRow i .failed l := by
  simp [lifecycleRow]

/-- An operation started in FAILED stays there, however far it has got. -/
theorem exec_failed {i : Instr} {s t : State} (hlc : s.lc = .failed) (hs : s.seq = .idle) (h : exec i s = .next t)
    (n : Nat) : (State.microSteps n t).lc = .failed := by
  rcases exec_lc hs h n with hkept | hrow
  · rw [hkept, hlc]
  · rw [hlc] at hrow
    exact absurd hrow (not_lifecycleRow_failed i _)

/-- No host write to an idle block leaves FAILED. -/
theorem State.hostWrite_failed {s t : State} {off : BitVec 8} {w : Word} (hlc : s.lc = .failed) (hs : s.seq = .idle)
    (h : s.hostWrite off w = .next t) : t.lc = .failed := by
  unfold State.hostWrite at h
  split at h
  case h_1 =>
    unfold State.writeCmd at h
    rw [if_neg (by simp [State.busy_of_idle hs])] at h
    split at h
    · cases h
      exact hlc
    · exact exec_failed (s := s.withCmd w) hlc hs h 0
  all_goals
    cases h
    exact hlc

theorem State.lc_hostRead (s : State) (off : BitVec 8) : (s.hostRead off).lc = s.lc := by
  unfold State.hostRead
  split <;> rfl

/-- Everything a host act can do: reset the engine, release the reset, read, be lost in reset, or write. -/
theorem State.hostAct_next {s t : State} {a : HostAct} (h : s.hostAct a = .next t) :
    a = .resetIn true ∨ t = { s with resetIn := false } ∨ (∃ off, t = s.hostRead off) ∨ t = s ∨
      ∃ off w, s.hostWrite off w = .next t := by
  cases a with
  | resetIn asserted =>
    cases asserted
    · cases h
      exact .inr (.inl rfl)
    · exact .inl rfl
  | read width off =>
    simp only [State.hostAct] at h
    split at h <;> cases h
    exact .inr (.inr (.inl ⟨off, rfl⟩))
  | write width off w =>
    simp only [State.hostAct] at h
    split at h
    · cases h
    · split at h
      · cases h
        exact .inr (.inr (.inr (.inl rfl)))
      · exact .inr (.inr (.inr (.inr ⟨off, w, h⟩)))

/-- Of the host acts to an idle block only an engine reset leaves FAILED. -/
theorem State.hostAct_failed {s t : State} {a : HostAct} (hlc : s.lc = .failed) (hs : s.seq = .idle)
    (h : s.hostAct a = .next t) (ht : t.lc ≠ .failed) : a = .resetIn true := by
  refine (State.hostAct_next h).resolve_right fun hother => ht ?_
  rcases hother with rfl | ⟨off, rfl⟩ | rfl | ⟨off, w, hwrite⟩
  · exact hlc
  · rw [State.lc_hostRead, hlc]
  · exact hlc
  · exact State.hostWrite_failed hlc hs hwrite

/-- The gate table's column of FAILED (60_exceptions.md R303). -/
theorem gateAllows_failed {i : Instr} (hnop : i ≠ .nop) (hread : i ≠ .readFbByte) (hdisplay : i ≠ .writeDisplay) :
    gateAllows i .failed = false := by
  cases i
  case nop => exact absurd rfl hnop
  case readFbByte => exact absurd rfl hread
  case writeDisplay => exact absurd rfl hdisplay
  all_goals rfl

/-- WRITE_DISPLAY outside READY is silent (45_writer.md R272). -/
theorem exec_writeDisplay_silent {s : State} (hq : s.quiet) (hlc : s.lc ≠ .ready) :
    exec .writeDisplay s = .next (s.latched s.env) := by
  rw [exec_quiet (i := .writeDisplay) hq rfl rfl (if_pos hlc)]
  exact congrArg _ (State.withSeq_self _ _ hq.1)

/-- Settles O53. FAILED is in no row of the table as a required state, so an operation there leaves LC; the engine's turn
of an idle engine does nothing, and of the host acts only the reset input moves LC. -/
theorem failedIsTerminal : Obligations.FailedIsTerminal := by
  refine ⟨fun i s hlc hs hw hnop hread hdisplay => ?gate, fun s hlc hq => ?silent, fun s t hlc hs h ht => ?leaves,
    fun i s t n hlc hs h => exec_failed hlc hs h n⟩
  case gate => exact exec_gate hs (hlc ▸ gateAllows_failed hnop hread hdisplay) hw
  case silent => exact exec_writeDisplay_silent hq (by simp [hlc])
  case leaves =>
    rcases step_cases s with hturn | ⟨a, rest, hin, hact⟩
    · rw [hturn, State.engineTurn_idle s hs] at h
      cases h
      exact absurd hlc ht
    · exact ⟨a, rest, hin, State.hostAct_failed (s := s.withInbox rest) hlc hs (hact.symm.trans h) ht⟩

end Sys2Proof.Machine
end

section
/-! The obligations about the pixel packer: the address of a pixel, SET_PIXEL and READ_FB_BYTE (44_codec.md R240 to
R245). -/

namespace Sys2Proof.Machine

/-! ## Operations without a wire event -/

/-- An accepted instruction whose script is state updates only. -/
theorem exec_updatesOnly {i : Instr} {s : State} {ms : List Micro} (hq : s.quiet) (hg : gateAllows i s.lc = true)
    (hw : i.wellFormed = true) (hb : bodyOf i s s.latchNow = .ok (updates ms)) :
    exec i s = .next ((s.performAll ms).latched s.env) := by
  rw [exec_quiet hq hg hw hb, State.withSeq_self _ _ (by simpa using hq.1)]
  rfl

/-- An operation that stops with a fault on its own check. -/
theorem exec_fault {i : Instr} {s : State} {f : Fault} (hs : s.seq = .idle) (hg : gateAllows i s.lc = true)
    (hw : i.wellFormed = true) (hb : bodyOf i s s.latchNow = .error (.fault f)) : exec i s = .fault f := by
  rw [exec_eq hw]
  simp [State.operate, State.busy_of_idle hs, hg, hb]

/-! ## The address of a pixel (R241 to R243) -/

/-- The pixels of a row come in pairs `p` below half the width, so rows of pairs fill the addresses without a gap. -/
theorem exists_pixelIndex_eq_iff {w h : Word} (hw : w.toNat % 4 = 0) (a : Nat) :
    (∃ x y : Word, x.toNat < w.toNat ∧ y.toNat < h.toNat ∧ pixelIndex x y w = a) ↔ a < fbLen w h := by
  have hwlt := w.isLt
  have hhlt := h.isLt
  constructor
  · rintro ⟨x, y, hx, hy, rfl⟩
    have hpair : x.toNat / 2 < w.toNat / 2 := by omega
    calc pixelIndex x y w < y.toNat * (w.toNat / 2) + w.toNat / 2 := Nat.add_lt_add_left hpair _
      _ = (y.toNat + 1) * (w.toNat / 2) := (Nat.succ_mul _ _).symm
      _ ≤ h.toNat * (w.toNat / 2) := Nat.mul_le_mul_right _ hy
      _ = fbLen w h := Nat.mul_comm _ _
  · intro ha
    have hpos : 0 < w.toNat / 2 := Nat.pos_of_mul_pos_right (Nat.zero_lt_of_lt ha)
    have hrow : a / (w.toNat / 2) < h.toNat := Nat.div_lt_of_lt_mul ha
    have hpair : a % (w.toNat / 2) < w.toNat / 2 := Nat.mod_lt _ hpos
    have hx : (BitVec.ofNat 16 (2 * (a % (w.toNat / 2)))).toNat = 2 * (a % (w.toNat / 2)) :=
      Nat.mod_eq_of_lt (by omega)
    have hy : (BitVec.ofNat 16 (a / (w.toNat / 2))).toNat = a / (w.toNat / 2) := Nat.mod_eq_of_lt (by omega)
    refine ⟨_, _, by rw [hx]; omega, by rwa [hy], ?_⟩
    rw [pixelIndex, hx, hy, Nat.mul_div_cancel_left _ Nat.two_pos, Nat.div_add_mod']

/-- Row and pair are quotient and remainder of the address by half the width. -/
theorem pixelIndex_eq_iff {x y x' y' w : Word} (hw : w.toNat % 4 = 0) (hx : x.toNat < w.toNat)
    (hx' : x'.toNat < w.toNat) :
    pixelIndex x y w = pixelIndex x' y' w ↔ y = y' ∧ x.toNat / 2 = x'.toNat / 2 := by
  have hparts : ∀ u v : Word, u.toNat < w.toNat →
      pixelIndex u v w / (w.toNat / 2) = v.toNat ∧ pixelIndex u v w % (w.toNat / 2) = u.toNat / 2 := by
    intro u v hu
    have hpair : u.toNat / 2 < w.toNat / 2 := by omega
    exact (Nat.div_mod_unique (Nat.zero_lt_of_lt hpair)).2
      ⟨by rw [pixelIndex, Nat.mul_comm, Nat.add_comm], hpair⟩
  constructor
  · intro h
    obtain ⟨hrow, hpair⟩ := hparts x y hx
    rw [h] at hrow hpair
    obtain ⟨hrow', hpair'⟩ := hparts x' y' hx'
    exact ⟨BitVec.eq_of_toNat_eq (hrow.symm.trans hrow'), hpair.symm.trans hpair'⟩
  · rintro ⟨rfl, hpair⟩
    rw [pixelIndex, pixelIndex, hpair]

/-- Settles O27: an address is a row of pairs and a place in it. -/
theorem pixelAddressesFillTheFramebuffer : Obligations.PixelAddressesFillTheFramebuffer :=
  fun _ _ hw => ⟨fun a => (exists_pixelIndex_eq_iff hw a).symm, fun _ _ _ _ => pixelIndex_eq_iff hw⟩

/-! ## SET_PIXEL (R240, R244) -/

theorem State.toNat_width (s : State) : s.width.toNat = if s.geomKnown then s.panelW.toNat else 960 := by
  rw [State.width]
  split <;> rfl

theorem State.toNat_height (s : State) : s.height.toNat = if s.geomKnown then s.panelH.toNat else 540 := by
  rw [State.height]
  split <;> rfl

theorem inBounds_iff {x y w h : Word} : inBounds x y w h = true ↔ x.toNat < w.toNat ∧ y.toNat < h.toNat := by
  simp [inBounds]

/-- The address of the pixel that ARG0 and ARG1 name. -/
def State.pixelAddress (s : State) : Nat := pixelIndex s.args[0] s.args[1] s.width

/-- The byte there once the pixel has the colour of ARG2. -/
def State.pixelByte (s : State) : Byte :=
  packPixel (s.fbByte s.pixelAddress) (s.args[0].getLsbD 0) (s.args[2].extractLsb' 0 4)

/-- An odd x keeps the high nibble of the old byte, an even x the low one. -/
theorem State.toNat_pixelByte (s : State) :
    s.pixelByte.toNat =
      if s.args[0].toNat % 2 = 1 then (s.fbByte s.pixelAddress).toNat / 16 * 16 + s.args[2].toNat % 16
      else s.args[2].toNat % 16 * 16 + (s.fbByte s.pixelAddress).toNat % 16 := by
  have hcolour : (s.args[2].extractLsb' 0 4).toNat = s.args[2].toNat % 16 := by
    rw [BitVec.extractLsb'_toNat, Nat.shiftRight_zero]
  have hparity : s.args[0].getLsbD 0 = decide (s.args[0].toNat % 2 = 1) := Nat.testBit_zero _
  rw [State.pixelByte, hparity, ← hcolour]
  split
  next hodd => rw [decide_eq_true hodd, toNat_packPixel_odd]
  next heven => rw [decide_eq_false heven, toNat_packPixel_even]

/-- The nibble x selects is the colour, the other one is the old byte's. -/
theorem State.nibbles_pixelByte (s : State) :
    if s.args[0].toNat % 2 = 1
    then s.pixelByte.toNat % 16 = s.args[2].toNat % 16 ∧
      s.pixelByte.toNat / 16 = (s.fbByte s.pixelAddress).toNat / 16
    else s.pixelByte.toNat / 16 = s.args[2].toNat % 16 ∧
      s.pixelByte.toNat % 16 = (s.fbByte s.pixelAddress).toNat % 16 := by
  rw [s.toNat_pixelByte]
  split <;> omega

theorem bodyOf_setPixel (s : State) :
    bodyOf .setPixel s s.latchNow =
      if inBounds s.args[0] s.args[1] s.width s.height = false then .ok (updates [])
      else if 259200 ≤ s.pixelAddress then .error (.fault .framebufferAddress)
      else .ok (updates [.writeFb s.pixelAddress s.pixelByte]) := rfl

/-- The state with that byte written. -/
def State.withPixel (s : State) : State := { s with fb := s.fb.write s.pixelAddress s.pixelByte }

@[simp] theorem State.read_withPixel (s : State) (b : Nat) :
    s.withPixel.fb.read b = if s.pixelAddress = b then some s.pixelByte else s.fb.read b := Memory.read_write ..

@[simp] theorem State.fbByte_withPixel (s : State) : s.withPixel.fbByte s.pixelAddress = s.pixelByte := by
  rw [State.fbByte, State.read_withPixel, if_pos rfl, Option.getD_some]

section
variable {s : State} (hq : s.quiet) (hf : s.lc ≠ .failed)
include hq hf

theorem exec_setPixel_inside (hin : s.args[0].toNat < s.width.toNat ∧ s.args[1].toNat < s.height.toNat)
    (ha : s.pixelAddress < 259200) :
    exec .setPixel s = .next (s.withPixel.latched s.env) := by
  refine exec_updatesOnly (ms := [.writeFb s.pixelAddress s.pixelByte]) hq (decide_eq_true hf) rfl ?_
  rw [bodyOf_setPixel, if_neg (by simp [inBounds_iff.2 hin]), if_neg (Nat.not_le.2 ha)]

theorem exec_setPixel_outside (hout : ¬ (s.args[0].toNat < s.width.toNat ∧ s.args[1].toNat < s.height.toNat)) :
    exec .setPixel s = .next (s.latched s.env) := by
  refine exec_updatesOnly (ms := []) hq (decide_eq_true hf) rfl ?_
  rw [bodyOf_setPixel, if_pos (Bool.eq_false_iff.2 (mt inBounds_iff.1 hout))]

theorem exec_setPixel_beyond (hin : s.args[0].toNat < s.width.toNat ∧ s.args[1].toNat < s.height.toNat)
    (ha : 259200 ≤ s.pixelAddress) : exec .setPixel s = .fault .framebufferAddress := by
  refine exec_fault hq.1 (decide_eq_true hf) rfl ?_
  rw [bodyOf_setPixel, if_neg (by simp [inBounds_iff.2 hin]), if_pos ha]

end

/-- Settles O26: the gate, then the three outcomes of the pixel's bounds and its address. -/
theorem setPixelPacksOneNibble : Obligations.SetPixelPacksOneNibble := by
  refine ⟨by decide, fun s hs hf => exec_gate hs (by rw [hf]; rfl) rfl, fun s hq hf => ?_⟩
  simp only [← State.toNat_width, ← State.toNat_height]
  refine ⟨fun hin ha => ?_, exec_setPixel_beyond hq hf, exec_setPixel_outside hq hf⟩
  refine ⟨_, exec_setPixel_inside hq hf hin ha, rfl, ?packed, fun b hb => ?others⟩
  case packed => exact (congrArg BitVec.toNat s.fbByte_withPixel).trans s.toNat_pixelByte
  case others => exact (s.read_withPixel b).trans (if_neg hb.symm)

/-! ## READ_FB_BYTE (R245) -/

theorem toNat_operand32_latchNow (s : State) :
    (operand32 s.latchNow 0 1).toNat = s.args[1].toNat * 65536 + s.args[0].toNat := toNat_word32 _ _

theorem bodyOf_readFbByte {s : State} {i : Nat} (hi : s.args[1].toNat * 65536 + s.args[0].toNat = i) :
    bodyOf .readFbByte s s.latchNow =
      if 259200 ≤ i then .error (.reject .errBounds)
      else .ok (updates [.setRdata ((s.fbByte i).zeroExtend 16)]) := by
  rw [← hi, ← toNat_operand32_latchNow]
  rfl

theorem exec_readFbByte_inside {s : State} {i : Nat} (hq : s.quiet)
    (hi : s.args[1].toNat * 65536 + s.args[0].toNat = i) (hlt : i < 259200) :
    exec .readFbByte s = .next (({ s with rdata := (s.fbByte i).zeroExtend 16 } : State).latched s.env) :=
  exec_updatesOnly (ms := [.setRdata ((s.fbByte i).zeroExtend 16)]) hq rfl rfl
    ((bodyOf_readFbByte hi).trans (if_neg (Nat.not_le.2 hlt)))

theorem toNat_zeroExtend_byte (v : Byte) : (v.zeroExtend 16 : Word).toNat = v.toNat :=
  BitVec.toNat_setWidth_of_le (by decide)

/-- Settles O28: one read inside the RAM, whose byte may never have been written, and the check beyond it. -/
theorem readFbByteReadsOneByte : Obligations.ReadFbByteReadsOneByte := by
  refine ⟨by decide, fun s => ⟨fun hq hlt => ?inside, fun hs hge => ?beyond⟩⟩
  case inside =>
    refine ⟨_, exec_readFbByte_inside hq rfl hlt, ?_⟩
    rw [toNat_zeroExtend_byte, State.fbByte]
    cases s.fb.read (s.args[1].toNat * 65536 + s.args[0].toNat) <;> rfl
  case beyond => exact exec_reject hs rfl rfl ((bodyOf_readFbByte rfl).trans (if_pos hge))

/-! ## One after the other -/

/-- The host has put an index into ARG0 and ARG1. -/
def State.withIndexArgs (s : State) (i : Nat) : State :=
  { s with args := (s.args.set 0 (BitVec.ofNat 16 i)).set 1 (BitVec.ofNat 16 (i / 65536)) }

/-- An index inside the RAM is the pair of its halves in ARG1 and ARG0. -/
theorem State.index_withIndexArgs (s : State) {i : Nat} (hi : i < 259200) :
    (s.withIndexArgs i).args[1].toNat * 65536 + (s.withIndexArgs i).args[0].toNat = i := by
  have hlow : (s.withIndexArgs i).args[0].toNat = i % 65536 := by simp [State.withIndexArgs]
  have hhigh : (s.withIndexArgs i).args[1].toNat = i / 65536 % 65536 := by simp [State.withIndexArgs]
  rw [hlow, hhigh]
  omega

/-- Settles O29: READ_FB_BYTE finds the byte SET_PIXEL packed. -/
theorem pixelWrittenIsReadBack : Obligations.PixelWrittenIsReadBack := by
  intro s hq hf x y i hx hy hi
  have hread := exec_readFbByte_inside (s := (s.withPixel.latched s.env).withIndexArgs i) hq
    (State.index_withIndexArgs _ hi) hi
  refine ⟨_, _, exec_setPixel_inside hq hf ⟨hx, hy⟩ hi, hread, rfl, rfl, ?_⟩
  have hbyte : ((s.withPixel.latched s.env).withIndexArgs i).fbByte i = s.pixelByte := s.fbByte_withPixel
  rw [State.rdata_latched, hbyte, toNat_zeroExtend_byte]
  exact ⟨s.pixelByte.isLt, s.nibbles_pixelByte⟩

end Sys2Proof.Machine
end

section
/-! The obligations about the display writer: WRITE_REGION, UPDATE_REGION, WRITE_DISPLAY and CLEAR (45_writer.md R260 to
R273). -/

namespace Sys2Proof.Machine

/-! ## Operations of wire events only -/

/-- The block once the script has run, when all its micro-steps are wire events. -/
def State.ranWire (s : State) (script : Script) : State :=
  (s.afterEvents (eventsOf (script s.env).1)).latched (script s.env).2

/-- An accepted instruction on a quiet block whose script is wire events only, with the events and choices of its script
named: two operations are compared through them. -/
theorem exec_wireOnly {i : Instr} {s : State} {script : Script} {P : List Event → Prop} (hq : s.quiet)
    (hg : gateAllows i s.lc = true) (hw : i.wellFormed = true) (hb : bodyOf i s s.latchNow = .ok script)
    (hp : Sends script P) : exec i s = .next (s.ranWire script) := by
  rw [exec_updates hq hg hw hb, stateUpdates_eq_nil (hp s.env).1]
  rfl

/-- One script after another leaves, but for operands and latches, what the second leaves after the first, whatever operands
each of them is given. -/
theorem State.ranWire_andThen (s : State) (p q : Script) (x y : Vector Word Config.P_ARGS) :
    s.ranWire (andThen p q) =
      { ({ ({ s with args := x } : State).ranWire p with args := y } : State).ranWire q with
        args := s.args, lat := (s.ranWire (andThen p q)).lat } := by
  simp only [State.ranWire, andThen, eventsOf_append, ← State.afterEvents_append]
  rfl

/-- An accepted instruction whose script is empty only latches. -/
theorem exec_silent {i : Instr} {s : State} (hq : s.quiet) (hg : gateAllows i s.lc = true) (hw : i.wellFormed = true)
    (hb : bodyOf i s s.latchNow = .ok (updates [])) : exec i s = .next (s.latched s.env) :=
  exec_updatesOnly hq hg hw hb

/-! ## The area load and the update with the block's own image buffer (R263, R264) -/

theorem State.areaLoad_sends (s : State) (x y w h : Word) (pixels : List Word) :
    Sends (areaLoad s.imgbuf x y w h pixels) (isAreaLoadTrace s.imgbufH s.imgbufL x y w h pixels) := by
  have hload := Machine.areaLoad_sends s.imgbuf x y w h pixels
  rwa [State.imgbuf, highHalf_word32, lowHalf_word32] at hload

theorem State.updateArea_sends (s : State) (pw ph x y w h mode : Word) :
    Sends (updateArea pw ph s.imgbuf x y w h mode)
      (isUpdateTrace s.imgbufH s.imgbufL x y (clipExtent x w pw) (clipExtent y h ph) mode) := by
  have hupdate := Machine.updateArea_sends pw ph s.imgbuf x y w h mode
  rwa [State.imgbuf, highHalf_word32, lowHalf_word32] at hupdate

/-- An update of the whole panel is not clipped. -/
theorem State.fullUpdate_sends (s : State) (w h mode : Word) :
    Sends (updateArea w h s.imgbuf 0 0 w h mode) (isUpdateTrace s.imgbufH s.imgbufL 0 0 w h mode) := by
  have hupdate := s.updateArea_sends w h 0 0 w h mode
  rwa [clipExtent_zero_self, clipExtent_zero_self] at hupdate

/-! ## Pixel words (R260, R270) -/

theorem toNat_encodeWord (b0 b1 : Byte) (reversed : Bool) :
    (encodeWord b0 b1 reversed).toNat =
      if reversed then b0.toNat * 256 + b1.toNat else 65535 - (b0.toNat * 256 + b1.toNat) := by
  cases reversed
  · exact toNat_encodeWord_inverted b0 b1
  · exact toNat_encodeWord_reversed b0 b1

@[simp] theorem State.length_pixelWords (s : State) (src n : Nat) (reversed : Bool) :
    (s.pixelWords src n reversed).length = n := by
  simp [State.pixelWords]

/-- Pixel word `k` is made of the bytes `2 * k` and `2 * k + 1` from the source address on. -/
theorem State.getD_pixelWords (s : State) (src : Nat) {n k : Nat} (hk : k < n) (reversed : Bool) :
    (s.pixelWords src n reversed).getD k 0
      = encodeWord (s.fbByte (src + 2 * k)) (s.fbByte (src + 2 * k + 1)) reversed := by
  simp [State.pixelWords, hk]

theorem State.toNat_getD_pixelWords (s : State) (src : Nat) {n k : Nat} (hk : k < n) (reversed : Bool) :
    ((s.pixelWords src n reversed).getD k 0).toNat =
      if reversed then (s.fbByte (src + 2 * k)).toNat * 256 + (s.fbByte (src + 2 * k + 1)).toNat
      else 65535 - ((s.fbByte (src + 2 * k)).toNat * 256 + (s.fbByte (src + 2 * k + 1)).toNat) := by
  rw [s.getD_pixelWords src hk, toNat_encodeWord]

/-! ## WRITE_REGION (R270) -/

/-- The framebuffer address that ARG5 and ARG4 name. -/
def State.sourceAddress (s : State) : Nat := s.args[5].toNat * 65536 + s.args[4].toNat

theorem State.toNat_operand32_source (s : State) : (operand32 s.latchNow 4 5).toNat = s.sourceAddress :=
  toNat_word32 _ _

/-- The pixel words of WRITE_REGION. -/
def State.regionWords (s : State) : List Word :=
  s.pixelWords s.sourceAddress (areaWords s.args[2] s.args[3]) s.reversed

/-- The frames of WRITE_REGION. -/
def State.regionLoad (s : State) : Script :=
  areaLoad s.imgbuf s.args[0] s.args[1] s.args[2] s.args[3] s.regionWords

/-- The checks of WRITE_REGION in their order, on the operand registers. -/
theorem bodyOf_writeRegion (s : State) :
    bodyOf .writeRegion s s.latchNow =
      if s.width.toNat < s.args[0].toNat ∨ s.height.toNat < s.args[1].toNat then .ok (updates [])
      else if s.args[0].toNat % 4 ≠ 0 ∨ s.args[2].toNat % 4 ≠ 0 then .error (.reject .errAlign)
      else if 259200 < s.sourceAddress + 2 * areaWords s.args[2] s.args[3] then .error (.reject .errBounds)
      else .ok s.regionLoad := by
  rw [State.regionLoad, State.regionWords, ← s.toNat_operand32_source]
  rfl

theorem bodyOf_writeRegion_fits {s : State} (hx : s.args[0].toNat ≤ s.width.toNat)
    (hy : s.args[1].toNat ≤ s.height.toNat) (hx4 : s.args[0].toNat % 4 = 0) (hw4 : s.args[2].toNat % 4 = 0)
    (hfit : s.sourceAddress + 2 * areaWords s.args[2] s.args[3] ≤ 259200) :
    bodyOf .writeRegion s s.latchNow = .ok s.regionLoad := by
  rw [bodyOf_writeRegion, if_neg (by omega), if_neg (by omega), if_neg (Nat.not_lt.2 hfit)]

/-- Settles O46: the checks in their order, then the area load of the words at the source address. -/
theorem writeRegionLoadsTheArea : Obligations.WriteRegionLoadsTheArea := by
  refine ⟨by decide, fun s => ⟨exec_gate_single rfl rfl, fun hq hlc hout => ?beyond, fun hs hlc hin hmis => ?align,
    fun hs hlc hin hx hw hbig => ?bounds⟩, fun s hq hlc hx hy hx4 hw4 hfit => ?load⟩
  case beyond =>
    exact exec_silent hq ((gateAllows_single rfl).2 hlc) rfl ((bodyOf_writeRegion s).trans (if_pos hout))
  case align =>
    refine exec_reject hs ((gateAllows_single rfl).2 hlc) rfl ?_
    rw [bodyOf_writeRegion, if_neg hin, if_pos hmis]
  case bounds =>
    refine exec_reject hs ((gateAllows_single rfl).2 hlc) rfl ?_
    rw [bodyOf_writeRegion, if_neg hin, if_neg (by omega)]
    exact if_pos hbig
  case load =>
    obtain ⟨evs, env, hevs, hexec⟩ := exec_sends hq ((gateAllows_single rfl).2 hlc) rfl
      (bodyOf_writeRegion_fits hx hy hx4 hw4 hfit) (s.areaLoad_sends _ _ _ _ _)
    exact ⟨evs, env, s.regionWords, s.length_pixelWords _ _ _,
      fun k hk => s.toNat_getD_pixelWords _ hk _, hevs, hexec⟩

/-! ## UPDATE_REGION (R271) -/

/-- The frames of UPDATE_REGION. -/
def State.regionUpdate (s : State) : Script :=
  updateArea s.width s.height s.imgbuf s.args[0] s.args[1] s.args[2] s.args[3] s.args[4]

/-- The checks of UPDATE_REGION in their order, on the operand registers. -/
theorem bodyOf_updateRegion (s : State) :
    bodyOf .updateRegion s s.latchNow =
      if s.args[4] = 8 then .ok (updates [])
      else if s.width.toNat < s.args[0].toNat ∨ s.height.toNat < s.args[1].toNat then .error (.reject .errBounds)
      else .ok s.regionUpdate := rfl

theorem bodyOf_updateRegion_inside {s : State} (hmode : s.args[4] ≠ 8) (hx : s.args[0].toNat ≤ s.width.toNat)
    (hy : s.args[1].toNat ≤ s.height.toNat) : bodyOf .updateRegion s s.latchNow = .ok s.regionUpdate := by
  rw [bodyOf_updateRegion, if_neg hmode, if_neg (by omega)]

/-- Settles O47: the checks in their order, then one update with the extents that `clip` leaves. -/
theorem updateRegionClipsToThePanel : Obligations.UpdateRegionClipsToThePanel := by
  refine ⟨by decide, fun s => exec_gate_single rfl rfl, fun s hq hlc hnone => ?none, fun s hs hlc hmode hout => ?bounds,
    fun s hq hlc hmode hx hy => ?update⟩
  case none =>
    exact exec_silent hq ((gateAllows_single rfl).2 hlc) rfl ((bodyOf_updateRegion s).trans (if_pos hnone))
  case bounds =>
    refine exec_reject hs ((gateAllows_single rfl).2 hlc) rfl ?_
    rw [bodyOf_updateRegion, if_neg hmode, if_pos hout]
  case update =>
    obtain ⟨evs, env, hevs, hexec⟩ := exec_sends hq ((gateAllows_single rfl).2 hlc) rfl
      (bodyOf_updateRegion_inside hmode hx hy) (s.updateArea_sends _ _ _ _ _ _ _)
    exact ⟨evs, env, _, _, toNat_clipExtent _ _ _, toNat_clipExtent _ _ _, hevs, hexec⟩

/-! ## WRITE_DISPLAY (R272) -/

/-- The pixel words of the whole framebuffer. -/
def State.displayWords (s : State) : List Word := s.pixelWords 0 (areaWords s.width s.height) s.reversed

/-- The area load of the whole framebuffer. -/
def State.displayLoad (s : State) : Script := areaLoad s.imgbuf 0 0 s.width s.height s.displayWords

/-- The fast update of the whole panel. -/
def State.displayUpdate (s : State) : Script := updateArea s.width s.height s.imgbuf 0 0 s.width s.height 6

theorem bodyOf_writeDisplay (s : State) :
    bodyOf .writeDisplay s s.latchNow =
      if s.lc ≠ .ready then .ok (updates [])
      else if 259200 < 2 * areaWords s.width s.height then .error (.fault .framebufferAddress)
      else .ok (andThen s.displayLoad s.displayUpdate) := rfl

theorem bodyOf_writeDisplay_fits {s : State} (hlc : s.lc = .ready) (hfit : 2 * areaWords s.width s.height ≤ 259200) :
    bodyOf .writeDisplay s s.latchNow = .ok (andThen s.displayLoad s.displayUpdate) := by
  rw [bodyOf_writeDisplay, if_neg (not_not.2 hlc), if_neg (Nat.not_lt.2 hfit)]

theorem State.displayLoad_sends (s : State) :
    Sends s.displayLoad (isAreaLoadTrace s.imgbufH s.imgbufL 0 0 s.width s.height s.displayWords) :=
  s.areaLoad_sends _ _ _ _ _

theorem State.displayUpdate_sends (s : State) :
    Sends s.displayUpdate (isUpdateTrace s.imgbufH s.imgbufL 0 0 s.width s.height 6) :=
  s.fullUpdate_sends _ _ _

/-- Pixel word `k` of the whole framebuffer. -/
theorem State.toNat_getD_displayWords (s : State) {k : Nat} (hk : k < areaWords s.width s.height) :
    (s.displayWords.getD k 0).toNat =
      if s.reversed then (s.fbByte (2 * k)).toNat * 256 + (s.fbByte (2 * k + 1)).toNat
      else 65535 - ((s.fbByte (2 * k)).toNat * 256 + (s.fbByte (2 * k + 1)).toNat) := by
  have hword := s.toNat_getD_pixelWords 0 hk s.reversed
  rwa [Nat.zero_add] at hword

/-- Settles O48: nothing outside READY; in READY the load and then the update, or the fault of a framebuffer that does not
fit. -/
theorem writeDisplayStreamsTheFramebuffer : Obligations.WriteDisplayStreamsTheFramebuffer := by
  refine ⟨by decide, fun s hq hlc => ?silent, fun s hq hlc hfit => ?stream, fun s hs hlc hbig => ?fault⟩
  case silent => exact exec_silent hq rfl rfl ((bodyOf_writeDisplay s).trans (if_pos hlc))
  case stream =>
    obtain ⟨evs, env, ⟨a, u, hload, hupdate, hevs⟩, hexec⟩ := exec_sends hq rfl rfl (bodyOf_writeDisplay_fits hlc hfit)
      (s.displayLoad_sends.andThen s.displayUpdate_sends)
    exact ⟨evs, env, s.displayWords, a, u, s.length_pixelWords _ _ _, fun k => s.toNat_getD_displayWords, hload, hupdate,
      hevs, hexec⟩
  case fault =>
    refine exec_fault hs rfl rfl ?_
    rw [bodyOf_writeDisplay, if_neg (not_not.2 hlc)]
    exact if_pos hbig

/-! ## WRITE_DISPLAY as two operations (R272) -/

/-- The host has asked for the whole panel from address 0 on: WRITE_REGION(0, 0, W, H, 0). -/
def State.withFullRegionArgs (s : State) : State :=
  { s with args := #v[0, 0, s.width, s.height, 0, 0, 0, 0, 0] }

/-- The host has asked for a fast update of the whole panel: UPDATE_REGION(0, 0, W, H, 6). -/
def State.withFullUpdateArgs (s : State) : State :=
  { s with args := #v[0, 0, s.width, s.height, 6, 0, 0, 0, 0] }

theorem State.sourceAddress_withFullRegionArgs (s : State) : s.withFullRegionArgs.sourceAddress = 0 := by
  simp [State.sourceAddress, State.withFullRegionArgs]

/-- With these operands the frames of WRITE_REGION load the whole framebuffer. -/
theorem State.regionLoad_withFullRegionArgs (s : State) : s.withFullRegionArgs.regionLoad = s.displayLoad := by
  rw [State.regionLoad, State.regionWords, s.sourceAddress_withFullRegionArgs]
  rfl

/-- With these operands WRITE_REGION runs the area load of the whole framebuffer. -/
theorem exec_writeRegion_full {s : State} (hq : s.quiet) (hlc : s.lc = .ready) (hw : s.width.toNat % 4 = 0)
    (hfit : 2 * areaWords s.width s.height ≤ 259200) :
    exec .writeRegion s.withFullRegionArgs = .next (s.withFullRegionArgs.ranWire s.displayLoad) := by
  have hbody : bodyOf .writeRegion s.withFullRegionArgs s.withFullRegionArgs.latchNow = .ok s.displayLoad := by
    rw [← s.regionLoad_withFullRegionArgs]
    refine bodyOf_writeRegion_fits (Nat.zero_le _) (Nat.zero_le _) rfl hw ?_
    rw [s.sourceAddress_withFullRegionArgs, Nat.zero_add]
    exact hfit
  exact exec_wireOnly hq ((gateAllows_single rfl).2 hlc) rfl hbody s.displayLoad_sends

/-- The fast update does not look at operands, latches or events. -/
theorem State.displayUpdate_ranWire_withFullRegionArgs (s : State) (script : Script) :
    (s.withFullRegionArgs.ranWire script).displayUpdate = s.displayUpdate := rfl

/-- With these operands UPDATE_REGION runs the fast update of the whole panel. -/
theorem exec_updateRegion_full {s : State} (hq : s.quiet) (hlc : s.lc = .ready) :
    exec .updateRegion s.withFullUpdateArgs = .next (s.withFullUpdateArgs.ranWire s.displayUpdate) := by
  have hmode : s.withFullUpdateArgs.args[4] ≠ 8 := show (6 : Word) ≠ 8 by decide
  have hbody : bodyOf .updateRegion s.withFullUpdateArgs s.withFullUpdateArgs.latchNow = .ok s.displayUpdate :=
    bodyOf_updateRegion_inside hmode (Nat.zero_le _) (Nat.zero_le _)
  exact exec_wireOnly hq ((gateAllows_single rfl).2 hlc) rfl hbody s.displayUpdate_sends

/-- Settles O49: the script of WRITE_DISPLAY is the scripts of the two operations one after the other, once their operands
name the whole panel. -/
theorem writeDisplayIsRegionThenUpdate : Obligations.WriteDisplayIsRegionThenUpdate := by
  intro s hq hlc hw hfit
  have hdisplay : exec .writeDisplay s = .next (s.ranWire (andThen s.displayLoad s.displayUpdate)) :=
    exec_wireOnly hq rfl rfl (bodyOf_writeDisplay_fits hlc hfit)
      (s.displayLoad_sends.andThen s.displayUpdate_sends)
  have hregion := exec_writeRegion_full hq hlc hw hfit
  have hupdate := exec_updateRegion_full (s := s.withFullRegionArgs.ranWire s.displayLoad) hq hlc
  rw [State.displayUpdate_ranWire_withFullRegionArgs] at hupdate
  exact ⟨_, _, _, hdisplay, hregion, hupdate, s.ranWire_andThen _ _ _ _⟩

/-! ## CLEAR (R273) -/

theorem initOperand_latchNow (s : State) : initOperand s.latchNow = decide (s.args[0].toNat % 2 = 1) :=
  Nat.testBit_zero _

/-- The trace of CLEAR in two parts: the constant word over the whole panel, and the init update if ARG0 asks for it. -/
def State.isClearTrace (s : State) (a u : List Event) : Prop :=
  isAreaLoadTrace s.imgbufH s.imgbufL 0 0 s.width s.height
    (List.replicate (s.width.toNat / 4 * s.height.toNat) (if s.reversed then 0x0000 else 0xFFFF)) a ∧
  (if s.args[0].toNat % 2 = 1 then isUpdateTrace s.imgbufH s.imgbufL 0 0 s.width s.height 0 u else u = [])

theorem State.clearPanel_sends (s : State) :
    Sends (clearPanel s.width s.height s.imgbuf s.reversed (initOperand s.latchNow)) fun t =>
      ∃ a u, s.isClearTrace a u ∧ t = a ++ u := by
  refine (Machine.clearPanel_sends _ _ _ _ _).mono ?_
  rintro t ⟨a, u, hload, hupdate, ht⟩
  rw [State.imgbuf, highHalf_word32, lowHalf_word32, encodeWord_zero] at hload
  simp only [initOperand_latchNow, decide_eq_true_eq, State.imgbuf, highHalf_word32, lowHalf_word32,
    clipExtent_zero_self] at hupdate
  exact ⟨a, u, ⟨hload, hupdate⟩, ht⟩

/-- Settles O50: the script is the clear of the panel, whose one word depends on REVERSED alone. -/
theorem clearStreamsTheConstantWord : Obligations.ClearStreamsTheConstantWord := by
  refine ⟨by decide, fun s => exec_gate_single rfl rfl, fun s hq hlc => ?_⟩
  obtain ⟨evs, env, ⟨a, u, ⟨hload, hupdate⟩, hevs⟩, hexec⟩ :=
    exec_sends (i := .clear) hq ((gateAllows_single rfl).2 hlc) rfl rfl s.clearPanel_sends
  exact ⟨evs, env, a, u, hload, hupdate, hevs, hexec⟩

end Sys2Proof.Machine
end

section
/-! The obligations about rejections: the command dropped while BUSY, the lifecycle gate, and what a rejection leaves
alone (60_exceptions.md R302, R303, R304, R306). -/

namespace Sys2Proof.Machine

/-- Settles O7: CMD takes the word, and the busy engine drops the command. -/
theorem commandWhileBusyIsDropped : Obligations.CommandWhileBusyIsDropped :=
  fun _ _ _ hb hr h => step_writeCmd_busy hb hr h

/-! ## Which causes an operation can record -/

/-- An operation's own checks reject with three causes only (R304). -/
theorem cause_of_bodyOf_reject {i : Instr} {s : State} {l : Latches} {c : Cause}
    (h : bodyOf i s l = .error (.reject c)) : c = .errBounds ∨ c = .errAlign ∨ c = .errAlloc := by
  cases i <;> simp only [bodyOf] at h
  case readWords | setPixel | readFbByte | writeRegion | updateRegion | writeDisplay =>
    repeat' split at h
    all_goals cases h
    all_goals simp
  all_goals cases h

/-- The only micro-steps that set an error bit are the failures of GET_DEVICE_INFO (43_init.md R214). -/
theorem mayContain_setSticky {i : Instr} {c : Cause} (h : mayContain i (.setSticky c)) :
    (i = .getDeviceInfo ∨ i = .setup) ∧ (c = .errDevinfo ∨ c = .errAlloc) := by
  have hi : i ∈ [.getDeviceInfo, .setup] := mem_issuers (m := .setSticky c) rfl h
  simp only [List.mem_cons, List.not_mem_nil, or_false] at hi
  refine ⟨hi, ?_⟩
  rcases hi with rfl | rfl <;> simpa [mayContain, Micro.isWire, Micro.event, Micro.setsInfo] using h

/-- An operation started keeps every flag but WARN_TIMEOUT that its script does not set. -/
theorem State.flag_launch {i : Instr} {s : State} {l : Latches} {script : Script} {c : Cause}
    (hb : bodyOf i s l = .ok script) (hc : c ≠ .warnTimeout) (hset : ¬ mayContain i (.setSticky c)) :
    (s.launch i script).flag c = s.flag c := by
  refine State.launch_field (fun s => s.flag c) (script_mayContain hb) (fun m hm s => ?_) fun _ _ _ _ => rfl
  have hne : m ≠ .setSticky c := by
    rintro rfl
    exact hset hm
  exact State.flag_performAll_ne c hc [m] s (by simpa using hne)

/-! ## The lifecycle gate -/

/-- Inside its gate set an operation does not touch ERR_STATE: neither its own checks nor its script name it. -/
theorem exec_flag_errState {i : Instr} {s t : State} (hw : i.wellFormed = true) (hs : s.seq = .idle)
    (hg : gateAllows i s.lc = true) (h : exec i s = .next t) : t.flag .errState = s.flag .errState := by
  rw [exec_eq hw] at h
  rcases s.operate_cases i (bodyOf i s) with ⟨hb, _⟩ | ⟨_, hg', _⟩ |
    ⟨_, _, ⟨c, hbody, hop⟩ | ⟨f, _, hop⟩ | ⟨script, hbody, hop⟩⟩
  · simp [State.busy_of_idle hs] at hb
  · simp [hg] at hg'
  · rw [hop] at h
    cases h
    have hc : c ≠ .errState := by rcases cause_of_bodyOf_reject hbody with rfl | rfl | rfl <;> decide
    simp [State.flag_setFlag, hc]
  · rw [hop] at h
    cases h
  · rw [hop] at h
    cases h
    refine State.flag_launch hbody (by decide) fun hset => ?_
    simpa using (mayContain_setSticky hset).2

/-- Settles O8: the model's gate is the table, and WRITE_DISPLAY has its own silent case. -/
theorem lifecycleGate : Obligations.LifecycleGate := by
  intro i s hw hs
  refine ⟨fun hout => ?_, fun hin t h => ?_, ?_⟩
  · exact exec_gate hs (by rwa [← Bool.not_eq_true, gateAllows_iff]) hw
  · exact exec_flag_errState hw hs ((gateAllows_iff i s.lc).2 hin) h
  · rintro rfl hlc hin
    exact exec_writeDisplay_silent ⟨hs, hin⟩ hlc

/-! ## Rejections -/

/-- Settles O9: a flag newly set is the one a rejection sets, for a launch sets none but WARN_TIMEOUT and those of
GET_DEVICE_INFO's failures. -/
theorem rejectionsArePrecise : Obligations.RejectionsArePrecise := by
  intro i s t c h hclear hset hc hfailure
  rcases exec_next h with ⟨d, rfl, _⟩ | ⟨_, _, _, script, hb, rfl⟩
  case inl =>
    have hd : d = c := by simpa [State.flag_setFlag, hclear] using hset
    rw [hd]
  case inr =>
    by_cases hmay : mayContain i (.setSticky c)
    · obtain ⟨hi, hcause⟩ := mayContain_setSticky hmay
      have hother := hfailure hi
      exact (hcause.elim hother.2 hother.1).elim
    · rw [State.flag_launch hb hc hmay, hclear] at hset
      cases hset

end Sys2Proof.Machine
end

section
/-! The obligation about timeouts: with every wait read as ready, nothing an operation does depends on the samples of
the waits (60_exceptions.md R305, 41_handshake.md R161). -/

namespace Sys2Proof.Machine

/-! ## Reading waits as ready -/

/-- A micro-step with a wait that timed out read as one that ended ready. -/
def Micro.untimed : Micro → Micro
  | .waitReady _ => .waitReady false
  | m => m

/-- The environment's choices but for the samples of the waits. -/
def Env.untimed (e : Env) : Env := { e with waits := [], waitDraws := 0 }

/-- SEQ with the waits left read as ready. -/
def Seq.untimed : Seq → Seq
  | .idle => .idle
  | .running op pos rest => .running op pos (rest.map Micro.untimed)

/-- All of the state that the samples of the waits leave alone: `W!` reads as `W`, WARN_TIMEOUT as set, and the samples
themselves as none. -/
def State.untimed (s : State) : State :=
  { s with
    traceRev := s.traceRev.map Event.untimed
    sticky := s.sticky ||| stickyMask .warnTimeout
    seq := s.seq.untimed
    env := s.env.untimed }

theorem Seq.untimed_seqAt (op : Instr) (pos : Nat) (ms : List Micro) :
    (seqAt op pos ms).untimed = seqAt op pos (ms.map Micro.untimed) := by
  cases ms <;> rfl

theorem Seq.left_untimed (q : Seq) : q.untimed.left = q.left := by
  cases q with
  | idle => rfl
  | running op pos rest => exact List.length_map ..

theorem received_map_untimed (ms : List Micro) : received (ms.map Micro.untimed) = received ms := by
  induction ms with
  | nil => rfl
  | cons m ms ih => cases m <;> simp [Micro.untimed, received, ih]

/-- Setting a flag and reading WARN_TIMEOUT as set do not see each other. -/
theorem State.untimed_setFlag (s : State) (c : Cause) : (s.setFlag c).untimed = s.untimed.setFlag c := by
  simp only [State.untimed, State.setFlag, BitVec.or_assoc, BitVec.or_comm (stickyMask c)]

/-- A timeout sets a bit that reads as set. -/
theorem State.untimed_setFlag_warnTimeout (s : State) : (s.setFlag .warnTimeout).untimed = s.untimed := by
  simp only [State.untimed, State.setFlag, stickyMask_absorb]

theorem State.untimed_emit (s : State) (e : Event) : (s.emit e).untimed = s.untimed.emit e.untimed := rfl

/-- A micro-step does the same but for a timeout. -/
theorem State.untimed_perform (s : State) (m : Micro) : (s.perform m).untimed = s.untimed.perform m.untimed := by
  cases m
  case waitReady timedOut =>
    cases timedOut
    · rfl
    · exact (State.untimed_emit ..).trans (congrArg (State.emit · .ready) s.untimed_setFlag_warnTimeout)
  case pollTimeout =>
    exact (State.untimed_emit ..).trans (congrArg (State.emit · .pollTimeout) (s.untimed_setFlag _))
  case setSticky c => exact s.untimed_setFlag c
  all_goals rfl

theorem State.untimed_performAll (s : State) (ms : List Micro) :
    (s.performAll ms).untimed = s.untimed.performAll (ms.map Micro.untimed) := by
  induction ms generalizing s with
  | nil => rfl
  | cons m ms ih => rw [State.performAll_cons, ih, State.untimed_perform, List.map_cons, State.performAll_cons]

/-! ## Scripts that do not look at the samples of the waits -/

/-- Whatever the samples of the waits, the script makes the same micro-steps, waits read as ready, and leaves the same
other choices. -/
def TimingBlind (script : Script) : Prop :=
  ∀ e f : Env, e.untimed = f.untimed →
    (script e).1.map Micro.untimed = (script f).1.map Micro.untimed ∧ (script e).2.untimed = (script f).2.untimed

theorem Env.untimed_drawWait (e : Env) : e.drawWait.2.untimed = e.untimed := by
  unfold Env.drawWait
  cases e.waits <;> rfl

theorem Env.untimed_drawRx (e : Env) : e.untimed.drawRx = (e.drawRx.1, e.drawRx.2.untimed) := by
  unfold Env.drawRx Env.untimed
  cases e.rx <;> rfl

theorem Env.untimed_drawPoll (e : Env) (window : Nat) :
    e.untimed.drawPoll window = ((e.drawPoll window).1, (e.drawPoll window).2.untimed) := by
  unfold Env.drawPoll Env.untimed
  cases e.polls <;> rfl

theorem timingBlind_updates (ms : List Micro) : TimingBlind (updates ms) := fun _ _ h => ⟨rfl, h⟩

theorem timingBlind_wire (ps : List Prim) : TimingBlind (wire ps) := by
  induction ps with
  | nil => exact timingBlind_updates []
  | cons p ps ih =>
    intro e f h
    cases p
    case waitReady =>
      have hwait : e.drawWait.2.untimed = f.drawWait.2.untimed := by rw [e.untimed_drawWait, f.untimed_drawWait, h]
      exact (ih _ _ hwait).imp_left (congrArg (Micro.waitReady false :: ·))
    case rx =>
      have hdraw := congrArg Env.drawRx h
      rw [Env.untimed_drawRx, Env.untimed_drawRx, Prod.mk.injEq] at hdraw
      obtain ⟨hword, hrest⟩ := hdraw
      exact (ih _ _ hrest).imp_left (congrArg₂ (List.cons ∘ Micro.rx) hword)
    all_goals exact (ih _ _ h).imp_left (congrArg (_ :: ·))

theorem TimingBlind.thenReceived {p : Script} {k : List Word → Script} (hp : TimingBlind p)
    (hk : ∀ ws, TimingBlind (k ws)) : TimingBlind (thenReceived p k) := by
  intro e f h
  obtain ⟨hfirst, henv⟩ := hp e f h
  have hwords : received (p e).1 = received (p f).1 := by
    rw [← received_map_untimed, hfirst, received_map_untimed]
  obtain ⟨hrest, hend⟩ := hk (received (p e).1) _ _ henv
  rw [hwords] at hrest hend
  simp only [Machine.thenReceived, List.map_append, hwords]
  exact ⟨congrArg₂ _ hfirst hrest, hend⟩

/-- `andThen` is `thenReceived` with a second script that ignores the words. -/
theorem TimingBlind.andThen {p q : Script} (hp : TimingBlind p) (hq : TimingBlind q) : TimingBlind (andThen p q) :=
  hp.thenReceived (k := fun _ => q) fun _ => hq

theorem timingBlind_pollReadsUpTo (n : Nat) : TimingBlind (pollReadsUpTo n) := by
  induction n with
  | zero =>
    refine (timingBlind_wire _).thenReceived fun ws => ?_
    split <;> exact timingBlind_updates _
  | succ n ih =>
    refine (timingBlind_wire _).thenReceived fun ws => ?_
    split
    · exact timingBlind_updates _
    · exact ih

theorem timingBlind_pollBusyRegister (t : Word) : TimingBlind (pollBusyRegister t) := by
  intro e f h
  have hdraw := congrArg (Env.drawPoll · (pollWindow t)) h
  simp only [Env.untimed_drawPoll, Prod.mk.injEq] at hdraw
  obtain ⟨hreads, hrest⟩ := hdraw
  simp only [pollBusyRegister, hreads]
  exact timingBlind_pollReadsUpTo _ _ _ hrest

theorem timingBlind_areaLoad (img : BitVec 32) (x y w h : Word) (pixels : List Word) :
    TimingBlind (areaLoad img x y w h pixels) :=
  (timingBlind_pollBusyRegister 0).andThen (timingBlind_wire _)

theorem timingBlind_updateArea (pw ph : Word) (img : BitVec 32) (x y w h mode : Word) :
    TimingBlind (updateArea pw ph img x y w h mode) :=
  (timingBlind_pollBusyRegister 0).andThen (timingBlind_wire _)

theorem timingBlind_clearPanel (pw ph : Word) (img : BitVec 32) (reversed init : Bool) :
    TimingBlind (clearPanel pw ph img reversed init) := by
  refine (timingBlind_areaLoad _ _ _ _ _ _).andThen ?_
  split
  · exact timingBlind_updateArea _ _ _ _ _ _ _ _
  · exact timingBlind_updates []

theorem timingBlind_getDeviceInfoScript {k : List Word → Script} (hk : ∀ r, TimingBlind (k r)) :
    TimingBlind (getDeviceInfoScript k) :=
  (timingBlind_wire _).thenReceived fun r => (timingBlind_updates _).andThen (hk r)

theorem timingBlind_setupClear (reversed : Bool) (r : List Word) : TimingBlind (setupClear reversed r) := by
  unfold setupClear
  split
  · exact timingBlind_updates []
  · exact timingBlind_clearPanel _ _ _ _ _

/-- Frames, then one move of LC: the shape of the three bring-up bodies (43_init.md R211 to R213). -/
theorem timingBlind_wire_updates (ps : List Prim) (ms : List Micro) : TimingBlind (andThen (wire ps) (updates ms)) :=
  (timingBlind_wire ps).andThen (timingBlind_updates ms)

/-- No operation's script looks at the samples of its waits (R305). -/
theorem script_timingBlind {i : Instr} {s : State} {l : Latches} {script : Script}
    (h : bodyOf i s l = .ok script) : TimingBlind script := by
  cases i <;> simp only [bodyOf] at h
  case nop => cases h; exact timingBlind_updates _
  case waitBusyLine | writeCommand | writeWord | writeRegister | setTargetAddr | writeArgs =>
    cases h
    exact timingBlind_wire _
  case pollBusyReg => cases h; exact timingBlind_pollBusyRegister _
  case readWord | readRegister =>
    cases h
    exact (timingBlind_wire _).thenReceived fun _ => timingBlind_updates _
  case readWords =>
    split at h <;> cases h
    exact (timingBlind_wire _).thenReceived fun _ => timingBlind_updates _
  case resetPanel | systemRun | configure => cases h; exact timingBlind_wire_updates _ _
  case getDeviceInfo => cases h; exact timingBlind_getDeviceInfoScript fun _ => timingBlind_updates _
  case setup =>
    cases h
    exact (timingBlind_wire_updates _ _).andThen <| (timingBlind_wire_updates _ _).andThen <|
      (timingBlind_wire_updates _ _).andThen <| timingBlind_getDeviceInfoScript (timingBlind_setupClear _)
  case setPixel =>
    split at h
    · cases h; exact timingBlind_updates _
    split at h <;> cases h
    exact timingBlind_updates _
  case readFbByte =>
    split at h <;> cases h
    exact timingBlind_updates _
  case writeRegion =>
    split at h
    · cases h; exact timingBlind_updates _
    split at h
    · cases h
    split at h <;> cases h
    exact timingBlind_areaLoad _ _ _ _ _ _
  case updateRegion =>
    split at h
    · cases h; exact timingBlind_updates _
    split at h <;> cases h
    exact timingBlind_updateArea _ _ _ _ _ _ _ _
  case writeDisplay =>
    split at h
    · cases h; exact timingBlind_updates _
    split at h <;> cases h
    exact (timingBlind_areaLoad _ _ _ _ _ _).andThen (timingBlind_updateArea _ _ _ _ _ _ _ _)
  case clear => cases h; exact timingBlind_clearPanel _ _ _ _ _

/-! ## Two runs of one instruction -/

/-- The samples of the coming waits replaced; everything else as it was. -/
def State.withWaits (s : State) (waits : List (Bool × List Bool)) (n : Nat) : State :=
  { s with env := { s.env with waits := waits, waitDraws := n } }

theorem State.untimed_withWaits (s : State) (waits : List (Bool × List Bool)) (n : Nat) :
    (s.withWaits waits n).untimed = s.untimed := rfl

theorem verdict_withWaits (i : Instr) (s : State) (waits : List (Bool × List Bool)) (n : Nat) :
    verdict i (s.withWaits waits n) = verdict i s := by
  cases i <;> rfl

/-- An instruction that starts a script starts the one of its body. -/
theorem bodyOf_of_verdict {i : Instr} {s : State} {script : Script} (h : verdict i s = .ok script) :
    bodyOf i s s.latchNow = .ok script := by
  unfold verdict at h
  split at h
  · cases h
  split at h
  · cases h
  split at h
  · cases h
  exact h

/-- What a launch leaves, read without timeouts, depends on the state read without timeouts and the micro-steps so
read. -/
theorem State.untimed_launch (s : State) (op : Instr) (script : Script) :
    (s.launch op script).untimed
      = (s.untimed.launch op fun _ => ((script s.env).1.map Micro.untimed, (script s.env).2.untimed)) := by
  have hturn : s.untimed.turnLength ((script s.env).1.map Micro.untimed) = s.turnLength (script s.env).1 := by
    simp only [State.turnLength, List.length_map]
    rfl
  rw [State.launch_eq, State.launch_eq]
  simp only [hturn, ← List.map_take, ← List.map_drop, ← State.untimed_performAll, ← Seq.untimed_seqAt]
  rfl

/-- An operation started from two states that differ in the samples of the waits ends its turn in two states that differ
in timeouts. -/
theorem TimingBlind.untimed_launch {script : Script} (h : TimingBlind script) (op : Instr) {s t : State}
    (hst : s.untimed = t.untimed) : (s.launch op script).untimed = (t.launch op script).untimed := by
  obtain ⟨hmicros, henv⟩ := h s.env t.env (congrArg State.env hst)
  rw [State.untimed_launch, State.untimed_launch, hst, hmicros, henv]

/-- Issuing an instruction with other samples coming gives a next state too, the same but for timeouts. -/
theorem exec_withWaits {i : Instr} {s t : State} (h : exec i s = .next t) (waits : List (Bool × List Bool)) (n : Nat) :
    ∃ u, exec i (s.withWaits waits n) = .next u ∧ u.untimed = t.untimed := by
  rw [exec_eq_answer] at h
  rw [exec_eq_answer, verdict_withWaits]
  cases hv : verdict i s with
  | error stop =>
    rw [hv] at h
    cases stop with
    | fault f => cases h
    | reject c =>
      cases h
      refine ⟨_, rfl, ?_⟩
      rw [State.untimed_setFlag, State.untimed_setFlag, State.untimed_withWaits]
  | ok script =>
    rw [hv] at h
    cases h
    exact ⟨_, rfl, (script_timingBlind (bodyOf_of_verdict hv)).untimed_launch i (s.untimed_withWaits waits n)⟩

/-- A state with the timing of another: its TRACE, its flags, its SEQ and its samples of the waits. -/
def State.withTiming (s timing : State) : State :=
  { s with
    traceRev := timing.traceRev
    sticky := timing.sticky
    seq := timing.seq
    env := { s.env with waits := timing.env.waits, waitDraws := timing.env.waitDraws } }

/-- States that are the same without timing differ in their timing at most. -/
theorem State.eq_withTiming {u t : State} (h : u.untimed = t.untimed) : u = t.withTiming u :=
  calc
    u = u.untimed.withTiming u := rfl
    _ = t.untimed.withTiming u := by rw [h]
    _ = t.withTiming u := rfl

/-- Settles O55: issuing the instruction with other samples answers the same verdict, whose script does not look at the
samples, so the two next states are the same without timing. -/
theorem timeoutsChangeNothingElse : Obligations.TimeoutsChangeNothingElse := by
  intro i s t waits n h
  obtain ⟨u, hexec, hut⟩ := exec_withWaits h waits n
  have htrace : u.traceRev.map Event.untimed = t.traceRev.map Event.untimed := congrArg State.traceRev hut
  have hleft : u.seq.left = t.seq.left := by
    rw [← u.seq.left_untimed, ← t.seq.left_untimed]
    exact congrArg (fun s => s.seq.left) hut
  refine ⟨u, hexec, ?_, congrArg State.sticky hut, hleft, State.eq_withTiming hut⟩
  simp only [State.trace, List.map_reverse, htrace]

end Sys2Proof.Machine
end

section
/-! The obligation about SETUP as the operations of the bring-up one after the other (70_reset_and_hazards.md R342,
43_init.md R216). -/

namespace Sys2Proof.Machine

/-! ## Running scripts one after the other -/

/-- The block once a whole script has run. -/
def State.ran (s : State) (script : Script) : State :=
  (s.performAll (script s.env).1).latched (script s.env).2

@[simp] theorem State.env_ran (s : State) (p : Script) : (s.ran p).env = (p s.env).2 := rfl

@[simp] theorem State.args_ran (s : State) (p : Script) : (s.ran p).args = s.args := s.args_performAll _

@[simp] theorem State.reversed_ran (s : State) (p : Script) : (s.ran p).reversed = s.reversed := s.reversed_performAll _

theorem State.quiet_ran {s : State} (hq : s.quiet) (p : Script) : (s.ran p).quiet :=
  ⟨(s.seq_performAll _).trans hq.1, (s.inbox_performAll _).trans hq.2⟩

/-- An instruction issued on a quiet block in the one lifecycle state it needs runs its script. -/
theorem exec_ran {i : Instr} {l : Lifecycle} {s : State} {script : Script} (hi : gateSet i = [l])
    (hw : i.wellFormed = true) (hq : s.quiet) (hlc : s.lc = l) (hb : bodyOf i s s.latchNow = .ok script) :
    exec i s = .next (s.ran script) := by
  rw [exec_quiet hq ((gateAllows_single hi).2 hlc) hw hb]
  exact congrArg _ (State.withSeq_self _ _ (State.quiet_ran hq script).1)

/-- The latches do not tell one run of two scripts from two runs: no micro-step changes what they take. -/
theorem State.ran_andThen (s : State) (p q : Script) : s.ran (andThen p q) = (s.ran p).ran q := by
  simp only [State.ran, andThen, State.env_latched, State.performAll_append, State.performAll_latched]
  rfl

theorem State.ran_congr {s : State} {p q : Script} (h : p s.env = q s.env) : s.ran p = s.ran q := by
  simp only [State.ran, h]

theorem State.ran_updates_nil (s : State) (p : Script) : (s.ran p).ran (updates []) = s.ran p := by
  rw [← State.ran_andThen, andThen_updates_nil]

theorem State.ran_eq_ranWire {p : Script} {P : List Event → Prop} (hp : Sends p P) (s : State) :
    s.ran p = s.ranWire p := by
  rw [State.ran, State.performAll_eq_updates_afterEvents, stateUpdates_eq_nil (hp s.env).1]
  rfl

theorem State.lc_ran_setLc (s : State) (p : Script) (l : Lifecycle) :
    (s.ran (andThen p (updates [.setLc l]))).lc = l := by
  rw [State.ran_andThen]
  rfl

/-! ## GET_DEVICE_INFO and what follows it -/

/-- The body of GET_DEVICE_INFO alone. -/
def readInfoScript : Script := getDeviceInfoScript fun _ => updates []

/-- What follows GET_DEVICE_INFO's body runs after it, on the record it has read. -/
theorem State.ran_getDeviceInfoScript (s : State) (k : List Word → Script) :
    s.ran (getDeviceInfoScript k) = (s.ran readInfoScript).ran (k (comingRecord s.env).toList) := by
  have hreceived : received (wire deviceInfoFrames s.env).1 = (comingRecord s.env).toList := by
    rw [wire_received, rxCount_deviceInfoFrames, toList_comingRecord]
  have hscript : ∀ k', getDeviceInfoScript k' s.env
      = andThen (wire deviceInfoFrames)
          (andThen (updates (deviceInfoUpdates (comingRecord s.env).toList)) (k' (comingRecord s.env).toList))
          s.env := by
    intro k'
    rw [← hreceived]
    rfl
  rw [State.ran_congr (hscript k), readInfoScript, State.ran_congr (hscript fun _ => updates []), andThen_updates_nil]
  simp only [State.ran_andThen]

/-- GET_DEVICE_INFO's body makes the record's updates. -/
theorem State.ran_readInfoScript (s : State) :
    ∃ evs env, s.ran readInfoScript
      = ((s.afterEvents evs).performAll (deviceInfoUpdates (comingRecord s.env).toList)).latched env := by
  obtain ⟨_, _, _, hupd⟩ := getDeviceInfoScript_acts (k := fun _ => updates []) s.env sends_updates_nil
  refine ⟨eventsOf (readInfoScript s.env).1, (readInfoScript s.env).2, ?_⟩
  rw [State.ran, State.performAll_eq_updates_afterEvents, readInfoScript, hupd]

/-- SETUP's clear is CLEAR's script for the geometry GET_DEVICE_INFO leaves, and is left out unless it leaves READY. -/
theorem State.setupClear_ran_readInfoScript (s : State) (reversed : Bool) :
    setupClear reversed (comingRecord s.env).toList =
      if (s.ran readInfoScript).lc = .ready then
        clearPanel (s.ran readInfoScript).width (s.ran readInfoScript).height (s.ran readInfoScript).imgbuf reversed true
      else updates [] := by
  obtain ⟨evs, env, hran⟩ := s.ran_readInfoScript
  generalize comingRecord s.env = r at hran
  rw [hran]
  simp only [setupClear, infoWord_toList r _ (by omega : 0 < 20), infoWord_toList r _ (by omega : 1 < 20),
    infoWord_toList r _ (by omega : 2 < 20), infoWord_toList r _ (by omega : 3 < 20)]
  cases hinfo : infoFailure r[0] r[1] with
  | some c =>
    rw [performAll_deviceInfoUpdates_failure _ hinfo]
    rfl
  | none =>
    rw [performAll_deviceInfoUpdates_success _ hinfo]
    rfl

/-! ## SETUP and CLEAR -/

/-- The block after RESET_PANEL, SYSTEM_RUN and CONFIGURE. -/
def State.afterConfigure (s : State) : State := ((s.ran resetPanelScript).ran systemRunScript).ran configureScript

/-- SETUP runs the four bodies and then its clear. -/
theorem exec_setup_ran {s : State} (hq : s.quiet) (hlc : s.lc = .unreset) :
    exec .setup s = .next ((s.afterConfigure.ran readInfoScript).ran
      (setupClear s.reversed (comingRecord s.afterConfigure.env).toList)) := by
  rw [exec_ran rfl rfl hq hlc (bodyOf_setup s s.latchNow), setupScript]
  simp only [State.ran_andThen, State.ran_getDeviceInfoScript]
  rfl

/-- The host has asked for a clear with the init update: CLEAR 1. -/
def State.withInitArg (s : State) : State := { s with args := s.args.set 0 1 }

theorem State.initOperand_withInitArg (s : State) : initOperand s.withInitArg.latchNow = true := by
  rw [initOperand_latchNow]
  simp [State.withInitArg]

/-- With this operand CLEAR runs the clear with the init update. -/
theorem exec_clear_init {s : State} (hq : s.quiet) (hlc : s.lc = .ready) :
    exec .clear s.withInitArg
      = .next (s.withInitArg.ranWire (clearPanel s.width s.height s.imgbuf s.reversed true)) := by
  have hbody : bodyOf .clear s.withInitArg s.withInitArg.latchNow
      = .ok (clearPanel s.width s.height s.imgbuf s.reversed true) := by
    rw [← s.initOperand_withInitArg]
    rfl
  exact exec_wireOnly hq ((gateAllows_single rfl).2 hlc) rfl hbody (clearPanel_sends _ _ _ _ _)

/-- The operand shows in the operands and latches only. -/
theorem State.ranWire_withInitArg (s : State) (p : Script) :
    s.ranWire p = { s.withInitArg.ranWire p with args := s.args, lat := (s.ranWire p).lat } := rfl

/-- Settles O45: a run of SETUP's script is a run of the four bodies and then of the clear, whose script is CLEAR's for
the geometry just read. -/
theorem setupIsTheStepwiseBringUp : Obligations.SetupIsTheStepwiseBringUp := by
  intro s hq hlc
  have hqa := State.quiet_ran hq resetPanelScript
  have hqb := State.quiet_ran hqa systemRunScript
  have hqc : s.afterConfigure.quiet := State.quiet_ran hqb configureScript
  have hreset := exec_ran (i := .resetPanel) rfl rfl hq hlc rfl
  have hrun := exec_ran (i := .systemRun) rfl rfl hqa (State.lc_ran_setLc _ _ _) rfl
  have hconf := exec_ran (i := .configure) rfl rfl hqb (State.lc_ran_setLc _ _ _) rfl
  have hinfo : exec .getDeviceInfo s.afterConfigure = .next (s.afterConfigure.ran readInfoScript) :=
    exec_ran rfl rfl hqc (State.lc_ran_setLc _ _ _) rfl
  have hargs : (s.afterConfigure.ran readInfoScript).args = s.args := by
    simp only [State.afterConfigure, State.args_ran]
  have hreversed : (s.afterConfigure.ran readInfoScript).reversed = s.reversed := by
    simp only [State.afterConfigure, State.reversed_ran]
  refine ⟨_, _, _, _, _, exec_setup_ran hq hlc, hreset, hrun, hconf, hinfo, fun hfail => ?_, fun hready => ?_⟩
  · rw [State.setupClear_ran_readInfoScript, if_neg hfail, State.ran_updates_nil]
  · refine ⟨_, exec_clear_init (State.quiet_ran hqc _) hready, ?_⟩
    rw [State.setupClear_ran_readInfoScript, if_pos hready, State.ran_eq_ranWire (clearPanel_sends _ _ _ _ _),
      hreversed, ← hargs]
    exact State.ranWire_withInitArg _ _

end Sys2Proof.Machine
end

section
/-! The obligations about writes of registers that are read-only to the host, and about engine reset
(10_state.md R30, R60; 70_reset_and_hazards.md R340). -/

namespace Sys2Proof.Machine

/-! ## Registers that are read-only to the host -/

/-- A register an operation's results stand in ignores a host write (log 13). -/
theorem State.hostWrite_of_drawnWhileBusy {off : BitVec 8} (h : drawnWhileBusy (hostReg off) = true) (s : State)
    (w : Word) : s.hostWrite off w = .next s := by
  unfold State.hostWrite
  cases hreg : hostReg off
  case cmd | status | ctrl | arg =>
    rw [hreg] at h
    cases h
  all_goals rfl

/-- Settles O17: the three ranges name result registers, which ignore a write out of reset; in reset every write is
lost. -/
theorem writesOfReadOnlyRegistersAreIgnored : Obligations.WritesOfReadOnlyRegistersAreIgnored := by
  intro s rest off w heven hrange hc
  cases hr : s.resetIn
  · rw [step_write hc heven hr, State.hostWrite_of_drawnWhileBusy (drawnWhileBusy_hostReg heven hrange)]
  · exact step_write_in_reset hc heven hr

/-! ## Engine reset -/

/-- Settles O22: whatever the engine is doing, the due host act is the step, and what it leaves is `engineReset`, the
state with the write lost, or the state with RESET_IN released. -/
theorem engineResetRestoresResetState : Obligations.EngineResetRestoresResetState := by
  refine ⟨fun s rest hassert => ?asserted, fun s rest off w hr heven hwrite => ?lost, fun s rest hrelease => ?released⟩
  case asserted => exact step_of_comesNext hassert
  case lost => exact step_write_in_reset hwrite heven hr
  case released => exact step_of_comesNext hrelease

/-! ## The invariant at reset -/

/-- The reset state has an empty RAM, no known geometry, an empty trace and SEL_OUT inactive (10_state.md R60). -/
theorem State.settled_reset : State.reset.settled = true := by
  have hsound : State.reset.sound = true :=
    (State.sound_iff _).2 ⟨Memory.wf_reset, fun hknown => absurd hknown Bool.false_ne_true, .outside, rfl,
      iff_of_true rfl rfl⟩
  exact (State.settled_iff _).2 ⟨hsound, rfl, iff_of_false Bool.false_ne_true (by decide)⟩

/-- Settles O23: the reset state is idle, settled and out of reset. -/
theorem invariantHoldsAtReset : Obligations.InvariantHoldsAtReset :=
  State.inv_of_onCourse rfl State.settled_reset

end Sys2Proof.Machine
end
